-- ==== Sys2Proof/Word.lean ====
section
/-! DEFINITION. The words of the CORE and their widths (spec/00_scope.md R5, spec/10_state.md R20). -/

namespace Sys2Proof

/-- One byte of IN_BYTES or OUT_BYTES (20_memory.md R50). -/
abbrev Byte := BitVec 8

/-- A 16-bit symbol, SYM_W (00_scope.md R5, R9). -/
abbrev Symbol := BitVec 16

/-- A 32-bit unsigned word: TOTAL, LEAFCNT, REM, one frequency count (R5: HDR_W, COUNT_W). -/
abbrev Word32 := BitVec 32

/-- A node weight, 48 bits unsigned, WEIGHT_W (R5). -/
abbrev Weight := BitVec 48

/-- A node index, 17 bits, IDX_W (R5). -/
abbrev NodeIdx := BitVec 17

/-- A command word, 64 bits, CMD_W (R5, 30_encoding.md R61). -/
abbrev CmdWord := BitVec 64

/-- An opcode, bits 63:60 of a command word (30_encoding.md R61). -/
abbrev Opcode := BitVec 4

/-- A bit sequence, leftmost bit first (R7); a path has left = 0 = `false`, right = 1 = `true` (R9). -/
abbrev Bits := List Bool

/-- One entry of the node store: the tagged variant of 10_state.md R20. -/
inductive Node where
  /-- `Leaf{sym, weight}` -/
  | leaf (sym : Symbol) (weight : Weight)
  /-- `Internal{weight, left, right}` -/
  | internal (weight : Weight) (left right : NodeIdx)
  deriving DecidableEq, Repr, Inhabited

end Sys2Proof
end

