-- ==== Sys2Proof/Syntax.lean ====
section
/-! DEFINITION. The instructions: one constructor per row of spec/opcode_table.json. Fourteen command words
(spec/30_encoding.md R62) and the two tokens of a serialized tree (R65, R66). Operands are bit vectors of exactly the
widths of R61 and R65, so that no operand outside its field can be written. -/

namespace Sys2Proof

/-- The instruction set of the CORE. -/
inductive Instr where
  /-- CLEAR, opcode 0x0 (46_control.md R153). -/
  | clear
  /-- FT_WRITE sym, count, opcode 0x1 (40_frequency_analyzer.md R82). -/
  | ftWrite (sym : Symbol) (count : Word32)
  /-- ANALYZE, opcode 0x2 (40_frequency_analyzer.md R81). -/
  | analyze
  /-- BUILD, opcode 0x3 (41_tree_builder.md R96). -/
  | build
  /-- DICT_ENC, opcode 0x4 (42_dictionary_codec.md R106). -/
  | dictEnc
  /-- HDR_WR, opcode 0x5 (44_encoder.md R130). -/
  | hdrWr
  /-- TREE_WR, opcode 0x6 (43_tree_serializer.md R117). -/
  | treeWr
  /-- ENC_BODY, opcode 0x7 (44_encoder.md R131). -/
  | encBody
  /-- COMPRESS, opcode 0x8 (44_encoder.md R134). -/
  | compress
  /-- HDR_RD, opcode 0x9 (45_decoder.md R141). -/
  | hdrRd
  /-- TREE_RD, opcode 0xA (43_tree_serializer.md R121). -/
  | treeRd
  /-- DICT_DEC, opcode 0xB (42_dictionary_codec.md R107). -/
  | dictDec
  /-- DEC_BODY, opcode 0xC (45_decoder.md R142). -/
  | decBody
  /-- DECOMPRESS, opcode 0xD (45_decoder.md R144). -/
  | decompress
  /-- T_LEAF with its symbol, 17 bits of a serialized tree (43_tree_serializer.md R115). -/
  | tLeaf (sym : Symbol)
  /-- T_MERGE, 1 bit of a serialized tree (43_tree_serializer.md R116). -/
  | tMerge
  deriving DecidableEq, Repr

/-- One token of a serialized tree (00_scope.md R9): what TREE_RD reads and TREE_WR writes. -/
inductive Token where
  /-- `L(s)` in the notation of 30_encoding.md R73. -/
  | leaf (sym : Symbol)
  /-- `M` in that notation. -/
  | merge
  deriving DecidableEq, Repr

/-- The token as an instruction. -/
def Token.instr : Token → Instr
  | .leaf sym => .tLeaf sym
  | .merge => .tMerge

/-- How an instruction reaches the CORE (30_encoding.md R60): a command word from the host, or the bits of a token. -/
inductive Code where
  /-- The CMD format, 64 bits. -/
  | command (w : CmdWord)
  /-- The T_LEAF or T_MERGE format, first bit leftmost. -/
  | token (bits : Bits)
  deriving DecidableEq, Repr

end Sys2Proof
end

