-- ==== Sys2Proof/Decode.lean ====
section
/-! DEFINITION. Decoding and encoding (spec/30_encoding.md): total on any 64-bit word and any bit sequence, rejecting by
name. The encoder is written from the same tables of R61, R62, R65 and R66. -/

namespace Sys2Proof

/-! ### Fields and bit sequences -/

/-- An N-bit field as a bit sequence, most significant bit first (00_scope.md R7). -/
def fieldBits {n : Nat} (v : BitVec n) : Bits :=
  (List.range n).map fun i => v.getLsbD (n - 1 - i)

/-- The unsigned integer whose bits, most significant first, are given (20_memory.md R45). -/
def bitsValue (bs : Bits) : Nat :=
  bs.foldl (fun acc b => 2 * acc + b.toNat) 0

/-! ### Command words -/

/-- Why a code is no instruction. -/
inductive DecodeError where
  /-- OP = 0xE or 0xF: no row of R62 has this opcode (R63). -/
  | unassignedOpcode
  /-- OP is not 0x1 and one of bits 59:0 is 1 (R63). -/
  | operandNotZero
  /-- OP = 0x1 and one of bits 11:0 is 1 (R63). -/
  | reservedNotZero
  /-- The bits end inside a token (43_tree_serializer.md R122 a, b). -/
  | truncatedToken
  /-- Bits are left over after the token: the code holds more than one. -/
  | trailingBits
  deriving DecidableEq, Repr

/-- OP, bits 63:60 (R61). -/
def opField (w : CmdWord) : Opcode := w.extractLsb' 60 4

/-- SYM, bits 59:44 (R61). -/
def symField (w : CmdWord) : Symbol := w.extractLsb' 44 16

/-- COUNT, bits 43:12 (R61). -/
def countField (w : CmdWord) : Word32 := w.extractLsb' 12 32

/-- Bits 59:0, which every command but FT_WRITE has zero (R61). -/
def operandField (w : CmdWord) : BitVec 60 := w.extractLsb' 0 60

/-- RSV, bits 11:0, reserved, must be zero (R61). -/
def reservedField (w : CmdWord) : BitVec 12 := w.extractLsb' 0 12

/-- The commands without operands, by opcode (R62). -/
def plainCommand (op : Opcode) : Option Instr :=
  match op.toNat with
  | 0x0 => some .clear
  | 0x2 => some .analyze
  | 0x3 => some .build
  | 0x4 => some .dictEnc
  | 0x5 => some .hdrWr
  | 0x6 => some .treeWr
  | 0x7 => some .encBody
  | 0x8 => some .compress
  | 0x9 => some .hdrRd
  | 0xA => some .treeRd
  | 0xB => some .dictDec
  | 0xC => some .decBody
  | 0xD => some .decompress
  | _ => none

/-- The command a 64-bit word selects, or why it selects none (R62, R63). -/
def decodeCommand (w : CmdWord) : Except DecodeError Instr :=
  if opField w = 0x1#4 then
    if reservedField w = 0#12 then .ok (.ftWrite (symField w) (countField w))
    else .error .reservedNotZero
  else
    match plainCommand (opField w) with
    | none => .error .unassignedOpcode
    | some i => if operandField w = 0#60 then .ok i else .error .operandNotZero

/-- The word of a command without operands (R61, R62). -/
def commandWord (op : Opcode) : CmdWord := op ++ 0#60

/-- The word of FT_WRITE sym, count (R61, R62). -/
def ftWriteWord (sym : Symbol) (count : Word32) : CmdWord := 0x1#4 ++ sym ++ count ++ 0#12

/-! ### Tokens -/

/-- How many bits follow a token's flag bit: `1` means 16 more, `0` means none (R71). -/
def payloadWidth (flag : Bool) : Nat := if flag then 16 else 0

/-- The token with this flag bit and this symbol field, R65 and R66 (the field is not used for flag 0). -/
def tokenOf (flag : Bool) (sym : Symbol) : Token := if flag then .leaf sym else .merge

/-- The first token of a bit sequence and the bits after it (R71). -/
def decodeToken : Bits → Except DecodeError (Token × Bits)
  | [] => .error .truncatedToken
  | flag :: rest =>
    if rest.length < payloadWidth flag then .error .truncatedToken
    else
      let payload := rest.take (payloadWidth flag)
      .ok (tokenOf flag (BitVec.ofNat 16 (bitsValue payload)), rest.drop (payloadWidth flag))

/-- The bits of a token (R65, R66). -/
def encodeToken : Token → Bits
  | .leaf sym => true :: fieldBits sym
  | .merge => [false]

/-! ### Instructions -/

/-- The instruction of a code, or why there is none. -/
def decode : Code → Except DecodeError Instr
  | .command w => decodeCommand w
  | .token bits =>
    match decodeToken bits with
    | .error e => .error e
    | .ok (t, []) => .ok t.instr
    | .ok (_, _ :: _) => .error .trailingBits

/-- The code of an instruction, from R61, R62, R65 and R66. -/
def encode : Instr → Code
  | .clear => .command (commandWord 0x0#4)
  | .ftWrite sym count => .command (ftWriteWord sym count)
  | .analyze => .command (commandWord 0x2#4)
  | .build => .command (commandWord 0x3#4)
  | .dictEnc => .command (commandWord 0x4#4)
  | .hdrWr => .command (commandWord 0x5#4)
  | .treeWr => .command (commandWord 0x6#4)
  | .encBody => .command (commandWord 0x7#4)
  | .compress => .command (commandWord 0x8#4)
  | .hdrRd => .command (commandWord 0x9#4)
  | .treeRd => .command (commandWord 0xA#4)
  | .dictDec => .command (commandWord 0xB#4)
  | .decBody => .command (commandWord 0xC#4)
  | .decompress => .command (commandWord 0xD#4)
  | .tLeaf sym => .token (encodeToken (.leaf sym))
  | .tMerge => .token (encodeToken .merge)

/-! ### The opcode table's own numbering of bits -/

/-- The bits of the serialized tree that a word of a token row stands for: the row's bits, first bit leftmost, and
zeros up to the longest token. A row of 17 bits or more has its flag at bit 16, the 1-bit row at bit 0
(spec/opcode_table.json, fields FLAG and SYM). Log 14. -/
def tableTokenBits (nbits w : Nat) : Bits :=
  if 17 ≤ nbits then fieldBits (BitVec.ofNat 17 w) else w.testBit 0 :: List.replicate 16 false

/-- The instruction the decoder reads from a word numbered as spec/opcode_table.json numbers it: a 64-bit row is a
command word, a shorter row is the first token of its bits. -/
def decodeTableWord (nbits w : Nat) : Option Instr :=
  if 64 ≤ nbits then
    match decode (.command (BitVec.ofNat 64 w)) with
    | .ok i => some i
    | .error _ => none
  else
    match decodeToken (tableTokenBits nbits w) with
    | .ok (t, _) => some t.instr
    | .error _ => none

end Sys2Proof
end

