-- ==== Sys2Proof/Config.lean ====
section
/-! DEFINITION. The fixed parameters of the CORE (spec/00_scope.md R5) and the free values: what the spec leaves at
'any value' is a constant with no body, so that no proof can see which value it is. -/

namespace Sys2Proof

/-- MAX_LEAVES (R5). -/
def Config.maxLeaves : Nat := 65536

/-- MAX_NODES (R5): the number of entries of the node store. -/
def Config.maxNodes : Nat := 131071

/-- The number of node indices that 17 bits can write: a walk over the node store that is deeper visits some index
twice. MAX_DEPTH (R5) is far below it. -/
def Config.walkDepth : Nat := 131072

/-- ERR_OFFSET on a fault, 'any value' (10_state.md R14, 92_eei_decisions.md D29). The argument numbers the draw.
FREE VALUE, log 5. -/
opaque Config.errOffset : Nat → BitVec 64

/-- What an entry of NODE that is not in use holds: 'unspecified (any value, never read)' (10_state.md R20).
FREE VALUE, log 6. -/
opaque Config.freeNode : NodeIdx → Node

/-- PQ between commands (10_state.md R25). FREE VALUE, log 8. -/
opaque Config.freePq : Nat → List NodeIdx

/-- STACK between commands (10_state.md R25). FREE VALUE, log 8. -/
opaque Config.freeStack : Nat → List NodeIdx

/-- REML between commands (10_state.md R25). FREE VALUE, log 8. -/
opaque Config.freeRemL : Nat → BitVec 17

/-- REMI between commands (10_state.md R25). FREE VALUE, log 8. -/
opaque Config.freeRemI : Nat → BitVec 17

/-- REM between commands (10_state.md R25). FREE VALUE, log 8. -/
opaque Config.freeRem : Nat → Word32

/-- PATHBUF between commands (10_state.md R25). FREE VALUE, log 8. -/
opaque Config.freePathBuf : Nat → Bits

end Sys2Proof
end

