-- ==== Sys2Proof/Machine/State.lean ====
section
/-! DEFINITION. The state of the CORE (spec/10_state.md), its streams and its host as plain data, the reasons a step
can stop, and the state after reset (R28). -/

namespace Sys2Proof.Machine

open Sys2Proof

/-- A table memory as a sparse list of entries in one canonical form: keys strictly rising, and no entry equal to what
an unlisted key reads as. The operations are in Machine/Ops.lean. Log 7. -/
abbrev Table (κ α : Type) := List (κ × α)

/-- IN_BYTES (20_memory.md R41): the bytes X of the current pass and the read position. `passes` holds what the source
delivers after each further `Rewind()`; none left means the same bytes again (70_reset_and_hazards.md R188). Log 3. -/
structure ByteSource where
  bytes : List Byte
  pos : Nat
  passes : List (List Byte)
  deriving DecidableEq, Repr

/-- IN_BITS (20_memory.md R41): the bit list B and the read position. -/
structure BitSource where
  bits : Bits
  pos : Nat
  deriving DecidableEq, Repr

/-- What the host does between steps (00_scope.md R6, 70_reset_and_hazards.md R185, R186, R191). Log 11. -/
inductive HostEvent where
  /-- Issue a command word (46_control.md R150). -/
  | command (w : CmdWord)
  /-- Assert reset (70_reset_and_hazards.md R185). -/
  | reset
  /-- Present a byte source at its start, with the bytes of each pass (R186, R188). -/
  | presentBytes (passes : List (List Byte))
  /-- Present a bit source at bit 0 (R186). -/
  | presentBits (bits : Bits)
  /-- Present an empty, open bit writer (R186). -/
  | openOutBits
  /-- Present an empty byte output (45_decoder.md R144). -/
  | openOutBytes
  /-- Close the bit writer after unit commands (20_memory.md R54, R191). -/
  | closeOutBits
  deriving DecidableEq, Repr

/-- Where the sequencer stands. Between commands it is idle. `treeLoop` is the top of the token loop of TREE_RD
(43_tree_serializer.md R121), seen one token a step. MODEL'S OWN, log 2. -/
inductive Phase where
  | idle
  | treeLoop
  deriving DecidableEq, Repr

/-- The kinds of fault of the CORE (60_exceptions.md R160). Taking one is a next state (`raise`). -/
inductive ErrKind where
  | ioError
  | corruptStream
  | illegalCommand
  | sequenceError
  | lookupMiss
  | lengthOverflow
  deriving DecidableEq, Repr

/-- The state of the CORE: host-visible registers, table memories and working state (R10), the four streams and the
host as inputs and outputs of a step, and two fields of the model's own. -/
structure State where
  /-- STATUS (R13). -/
  status : BitVec 8
  /-- FLAGS (R15). -/
  flags : BitVec 5
  /-- TOTAL. -/
  total : Word32
  /-- LEAFCNT. -/
  leafCnt : Word32
  /-- ROOT; `none` is the spec's NONE. -/
  root : Option NodeIdx
  /-- NCOUNT. -/
  nCount : BitVec 18
  /-- MAXDEPTH. -/
  maxDepth : BitVec 17
  /-- ERR_OFFSET (R14). -/
  errOffset : BitVec 64
  /-- FT (R18): an unlisted symbol has count 0. -/
  ft : Table Symbol Word32
  /-- NODE (R20): an unlisted entry is not in use and reads as a free value. -/
  node : Table NodeIdx Node
  /-- CT (R22): an unlisted symbol is INVALID. -/
  ct : Table Symbol Bits
  /-- DT (R23). -/
  dt : Table Bits Symbol
  /-- PQ (R25): a set of node indices. -/
  pq : List NodeIdx
  /-- STACK (R25), most recently pushed first; SP is its length. -/
  stack : List NodeIdx
  /-- REML (R25). -/
  remL : BitVec 17
  /-- REMI (R25). -/
  remI : BitVec 17
  /-- REM (R25). -/
  rem : Word32
  /-- PATHBUF (R25). -/
  pathBuf : Bits
  /-- IN_BYTES. -/
  inBytes : ByteSource
  /-- OUT_BITS (20_memory.md R41, R44). -/
  outBits : Bits
  /-- IN_BITS. -/
  inBits : BitSource
  /-- OUT_BYTES (20_memory.md R41, R46). -/
  outBytes : List Byte
  /-- The collaborators' answers to the stream calls to come, `true` for IOFAULT; none left means no fault
  (20_memory.md R47). Log 4. -/
  ioAnswers : List Bool
  /-- What the host does next, first event first (10_state.md R12, R27). Log 1. -/
  host : List HostEvent
  /-- MODEL'S OWN, log 2. -/
  phase : Phase
  /-- MODEL'S OWN: numbers the free values drawn, log 8. -/
  draws : Nat
  deriving DecidableEq, Repr

/-- The machine right after reset (R28, 70_reset_and_hazards.md R185). The spec leaves the working state unspecified:
the values here are log 9. No stream is presented and the host has issued nothing: log 3, log 1. -/
def State.reset : State where
  status := 0x00#8
  flags := 0#5
  total := 0#32
  leafCnt := 0#32
  root := none
  nCount := 0#18
  maxDepth := 0#17
  errOffset := 0#64
  ft := []
  node := []
  ct := []
  dt := []
  pq := []
  stack := []
  remL := 0#17
  remI := 0#17
  rem := 0#32
  pathBuf := []
  inBytes := { bytes := [], pos := 0, passes := [] }
  outBits := []
  inBits := { bits := [], pos := 0 }
  outBytes := []
  ioAnswers := []
  host := []
  phase := .idle
  draws := 0

/-- Why the model stops. None of these is a fault of the CORE (those are next states); each stands where a rule of the
spec has a condition that no run from reset breaks, and is SAFE: the model stops where the spec gives no effect. Log 12. -/
inductive Fault where
  /-- Raised by DICT_ENC, DICT_DEC, TREE_WR, COMPRESS and DECOMPRESS where the node store holds a cycle, against
  10_state.md R21, so that the walk of 42_dictionary_codec.md R105 does not end. Safe. -/
  | walkDiverges
  /-- Raised by BUILD, TREE_RD, T_LEAF, T_MERGE (and the macro commands) where NCOUNT > 131070 at the creation of a
  node, outside the condition of 41_tree_builder.md R95 and 43_tree_serializer.md R115. Safe. -/
  | nodeStoreFull
  /-- PQ_EXTRACT_MIN on an empty PQ; 'BUILD never calls it on an empty PQ' (41_tree_builder.md R94). Safe. -/
  | emptyQueue
  /-- The end of the token loop with an empty stack; 'here SP was 1' (43_tree_serializer.md R121). Safe. -/
  | emptyStack
  /-- A loop ran past its bound. The bound exceeds the number of stream elements, and every pass consumes one, so it is
  never raised (70_reset_and_hazards.md R194). Safe. -/
  | loopBound
  deriving DecidableEq, Repr

/-- Why an instruction has no meaning. -/
inductive Refusal where
  /-- Raised by an arm of `exec` whose instruction has no meaning yet. Every arm has one. Safe. -/
  | notModelled (mnemonic : String)
  deriving DecidableEq, Repr

end Sys2Proof.Machine
end

