-- ==== Sys2Proof/Machine/Flags.lean ====
section
/-! DEFINITION. The fields of STATUS (spec/10_state.md R13) and the flags of FLAGS (R15). -/

namespace Sys2Proof.Machine

open Sys2Proof

/-! ### STATUS -/

/-- The error code of a fault, STATUS.ERR (R13, 60_exceptions.md R160). -/
def errCode : ErrKind → BitVec 3
  | .ioError => 1#3
  | .corruptStream => 2#3
  | .illegalCommand => 3#3
  | .sequenceError => 4#3
  | .lookupMiss => 5#3
  | .lengthOverflow => 6#3

/-- STATUS after a fault: ERR_STAGE in bits 7:4, ERR in bits 3:1, ST = 1 in bit 0 (R13). -/
def statusWord (k : ErrKind) (stage : Opcode) : BitVec 8 := stage ++ errCode k ++ 1#1

/-- ST = ERROR (R13). -/
def State.isError (s : State) : Bool := s.status.getLsbD 0

/-- STATUS.ERR (R13). -/
def State.err (s : State) : BitVec 3 := s.status.extractLsb' 1 3

/-- STATUS.ERR_STAGE (R13). -/
def State.errStage (s : State) : Opcode := s.status.extractLsb' 4 4

/-! ### FLAGS -/

/-- FAV, bit 0. -/
def favMask : BitVec 5 := 0b00001#5

/-- TRV, bit 1. -/
def trvMask : BitVec 5 := 0b00010#5

/-- DEV, bit 2. -/
def devMask : BitVec 5 := 0b00100#5

/-- DDV, bit 3. -/
def ddvMask : BitVec 5 := 0b01000#5

/-- HRV, bit 4. -/
def hrvMask : BitVec 5 := 0b10000#5

/-- FAV: FT and TOTAL hold the result of a completed ANALYZE. -/
def State.fav (s : State) : Bool := s.flags.getLsbD 0

/-- TRV: NODE, ROOT, LEAFCNT, NCOUNT hold a complete tree. -/
def State.trv (s : State) : Bool := s.flags.getLsbD 1

/-- DEV: CT holds the encode dictionary of the current tree. -/
def State.dev (s : State) : Bool := s.flags.getLsbD 2

/-- DDV: DT and MAXDEPTH hold the decode dictionary of the current tree. -/
def State.ddv (s : State) : Bool := s.flags.getLsbD 3

/-- HRV: TOTAL and LEAFCNT hold a header that HDR_RD accepted. -/
def State.hrv (s : State) : Bool := s.flags.getLsbD 4

/-- Clears the flags of a mask. -/
def clearFlags (mask : BitVec 5) (s : State) : State := { s with flags := s.flags &&& ~~~mask }

/-- Sets the flags of a mask. -/
def setFlags (mask : BitVec 5) (s : State) : State := { s with flags := s.flags ||| mask }

end Sys2Proof.Machine
end

