-- ==== Sys2Proof/Machine/Ops.lean ====
section
/-! DEFINITION. The named operations: fault entry and its return, table memories, node store, stream calls. -/

namespace Sys2Proof.Machine

open Sys2Proof

/-! ### The course of a command -/

/-- How a piece of a command ends: it goes on with a value; or a fault was raised and the command ended there, with the
state the fault left (60_exceptions.md R170); or the model stops. -/
inductive Flow (α : Type) where
  | ok (a : α) (s : State)
  | ended (s : State)
  | stop (f : Fault)
  deriving DecidableEq, Repr

/-- Sequencing: 'the command, and the macro command containing it, end here' (R170). -/
def Flow.bind {α β : Type} (m : Flow α) (f : α → State → Flow β) : Flow β :=
  match m with
  | .ok a s => f a s
  | .ended s => .ended s
  | .stop e => .stop e

/-- Applies `g` to the state a command leaves, whether it completed or faulted. -/
def Flow.atEnd {α : Type} (m : Flow α) (g : State → State) : Flow α :=
  match m with
  | .ok a s => .ok a (g s)
  | .ended s => .ended (g s)
  | .stop e => .stop e

/-- The outcome of a whole command: completed or faulted, the CORE is back with the host (R170). -/
def Flow.outcome (m : Flow Unit) : Host.Outcome State Fault Refusal :=
  match m with
  | .ok _ s => .next s
  | .ended s => .next s
  | .stop e => .fault e

/-! ### Fault entry and return -/

/-- Fault entry, `raise F` (60_exceptions.md R170): ST, ERR and ERR_STAGE are written, ERR_OFFSET takes any value (a free
value, log 5), and the command ends, so the sequencer is idle. Every earlier write stays. -/
def raise (k : ErrKind) (stage : Opcode) (s : State) : State :=
  { s with
    status := statusWord k stage
    errOffset := Config.errOffset s.draws
    draws := s.draws + 1
    phase := .idle }

/-- The node store with no entry in use: NCOUNT <- 0. What the entries then hold is unspecified (10_state.md R20), so
none is listed. Log 6. -/
def dropNodes (s : State) : State := { s with nCount := 0#18, node := [] }

/-- The return from a fault, and the effect of CLEAR (46_control.md R153, 60_exceptions.md R172): the registers and
tables of 10_state.md R28; streams are not touched. -/
def clearCore (s : State) : State :=
  dropNodes { s with
    status := 0x00#8, errOffset := 0#64, flags := 0#5, total := 0#32, leafCnt := 0#32, root := none
    maxDepth := 0#17, ft := [], ct := [], dt := [] }

/-- `require C` (46_control.md R152): SequenceError before any other effect when C is false. -/
def require (c : Bool) (stage : Opcode) (s : State) : Flow Unit :=
  if c then .ok () s else .ended (raise .sequenceError stage s)

/-! ### Working state between commands (10_state.md R25) -/

/-- PQ after the command that used it: any value. Log 8. -/
def releasePq (s : State) : State :=
  { s with pq := (Config.freePq s.draws).take Config.maxLeaves, draws := s.draws + 1 }

/-- STACK, REML and REMI after the command that used them: any value. Log 8. -/
def releaseStack (s : State) : State :=
  { s with
    stack := (Config.freeStack s.draws).take Config.maxLeaves
    remL := Config.freeRemL s.draws, remI := Config.freeRemI s.draws, draws := s.draws + 1 }

/-- REM and PATHBUF after the command that used them: any value. Log 8. -/
def releasePath (s : State) : State :=
  { s with
    rem := Config.freeRem s.draws, pathBuf := Config.freePathBuf s.draws, draws := s.draws + 1 }

/-- Reset (70_reset_and_hazards.md R185): the registers and tables of 10_state.md R28, working state unspecified, the
streams not touched. -/
def hardReset (s : State) : State :=
  releasePath (releaseStack (releasePq { clearCore s with phase := .idle }))

/-! ### Table memories (20_memory.md R50, R52) -/

/-- The place of a symbol in FT and CT. -/
def symRank (s : Symbol) : Nat := s.toNat

/-- The place of a node index in NODE. -/
def idxRank (i : NodeIdx) : Nat := i.toNat

/-- The place of a path in DT: shorter paths first, then as binary numbers. Distinct paths have distinct places. -/
def pathRank (p : Bits) : Nat := p.foldl (fun acc b => 2 * acc + b.toNat) 1

/-- The entry of a key, if one is listed. -/
def Table.find {κ α : Type} (rank : κ → Nat) (t : Table κ α) (k : κ) : Option α :=
  match t with
  | [] => none
  | (k', v) :: t => if rank k' = rank k then some v else Table.find rank t k

/-- Writes one entry in its place. -/
def Table.put {κ α : Type} (rank : κ → Nat) (t : Table κ α) (k : κ) (v : α) : Table κ α :=
  match t with
  | [] => [(k, v)]
  | (k', v') :: t =>
    if rank k < rank k' then (k, v) :: (k', v') :: t
    else if rank k = rank k' then (k, v) :: t
    else (k', v') :: Table.put rank t k v

/-- Removes the entry of a key. -/
def Table.drop {κ α : Type} (rank : κ → Nat) (t : Table κ α) (k : κ) : Table κ α :=
  match t with
  | [] => []
  | (k', v') :: t => if rank k' = rank k then t else (k', v') :: Table.drop rank t k

/-- The keys are strictly rising. -/
def Table.rising {κ α : Type} (rank : κ → Nat) : Table κ α → Bool
  | [] => true
  | [_] => true
  | (k, _) :: (k', v') :: t => decide (rank k < rank k') && Table.rising rank ((k', v') :: t)

/-- `FT[s]`: an unlisted symbol has count 0 (10_state.md R18). -/
def readFt (s : State) (sym : Symbol) : Word32 := (Table.find symRank s.ft sym).getD 0#32

/-- `FT[sym] <- count`; count 0 removes the entry (40_frequency_analyzer.md R82). -/
def writeFt (sym : Symbol) (count : Word32) (s : State) : State :=
  { s with ft := if count = 0#32 then Table.drop symRank s.ft sym else Table.put symRank s.ft sym count }

/-- `CT[s]`: `none` is INVALID (10_state.md R22). -/
def readCt (s : State) (sym : Symbol) : Option Bits := Table.find symRank s.ct sym

/-- `CT[sym] <- p`. -/
def writeCt (sym : Symbol) (p : Bits) (s : State) : State := { s with ct := Table.put symRank s.ct sym p }

/-- `DT[p]`, `none` when p is no key (20_memory.md R52). -/
def readDt (s : State) (p : Bits) : Option Symbol := Table.find pathRank s.dt p

/-- `DT[p] <- sym`. -/
def writeDt (p : Bits) (sym : Symbol) (s : State) : State := { s with dt := Table.put pathRank s.dt p sym }

/-- `NODE[i]`: an entry that is not listed is not in use and holds any value (10_state.md R20). Log 6. -/
def readNode (s : State) (i : NodeIdx) : Node := (Table.find idxRank s.node i).getD (Config.freeNode i)

/-- `NODE[NCOUNT] <- n; NCOUNT <- NCOUNT + 1`, answering the new index, on the condition NCOUNT <= 131070
(41_tree_builder.md R95, 43_tree_serializer.md R115). -/
def allocNode (n : Node) (s : State) : Flow NodeIdx :=
  if s.nCount.toNat < Config.maxNodes then
    let i : NodeIdx := s.nCount.setWidth 17
    .ok i { s with node := Table.put idxRank s.node i n, nCount := s.nCount + 1#18 }
  else .stop .nodeStoreFull

/-- The canonical form of all four tables: keys strictly rising, no FT entry equal to what an unlisted symbol reads as. -/
def Memory.wf (s : State) : Bool :=
  Table.rising symRank s.ft && s.ft.all (fun e => decide (e.2 ≠ 0#32)) &&
    Table.rising idxRank s.node && Table.rising symRank s.ct && Table.rising pathRank s.dt

/-! ### Stream calls (20_memory.md R43 to R47) -/

/-- The collaborators' answers still to come (R47). -/
def setIo (answers : List Bool) (s : State) : State := { s with ioAnswers := answers }

/-- Moves the read position of IN_BYTES. -/
def seekBytes (pos : Nat) (s : State) : State := { s with inBytes := { s.inBytes with pos := pos } }

/-- Moves the read position of IN_BITS. -/
def seekBits (pos : Nat) (s : State) : State := { s with inBits := { s.inBits with pos := pos } }

/-- Appends bits to OUT_BITS. -/
def appendBits (bs : Bits) (s : State) : State := { s with outBits := s.outBits ++ bs }

/-- Appends bytes to OUT_BYTES. -/
def appendBytes (bs : List Byte) (s : State) : State := { s with outBytes := s.outBytes ++ bs }

/-- The collaborator's answer to one call, `true` for IOFAULT (R47). Log 4. -/
def askIo (s : State) : Bool × State :=
  match s.ioAnswers with
  | [] => (false, s)
  | a :: rest => (a, setIo rest s)

/-- One stream call: IOFAULT raises IoError before any effect of the call (R47, 60_exceptions.md R161). -/
def ioCall (stage : Opcode) (s : State) : Flow Unit :=
  if (askIo s).1 then .ended (raise .ioError stage (askIo s).2) else .ok () (askIo s).2

/-- `Rewind()` (R43). What the source delivers on this pass is the environment's (70_reset_and_hazards.md R188). -/
def rewind (s : State) : State :=
  match s.inBytes.passes with
  | [] => seekBytes 0 s
  | p :: rest => { s with inBytes := { bytes := p, pos := 0, passes := rest } }

/-- `RdByte()` (R43): `none` is EOS, the normal end of the input. -/
def rdByte (stage : Opcode) (s : State) : Flow (Option Byte) :=
  (ioCall stage s).bind fun _ s =>
    match s.inBytes.bytes[s.inBytes.pos]? with
    | none => .ok none s
    | some b => .ok (some b) (seekBytes (s.inBytes.pos + 1) s)

/-- `RdBits(n)` (R45): EOS raises CorruptStreamError and consumes nothing. -/
def rdBits (stage : Opcode) (n : Nat) (s : State) : Flow (BitVec n) :=
  (ioCall stage s).bind fun _ s =>
    if s.inBits.bits.length < s.inBits.pos + n then .ended (raise .corruptStream stage s)
    else
      .ok (BitVec.ofNat n (bitsValue ((s.inBits.bits.drop s.inBits.pos).take n)))
        (seekBits (s.inBits.pos + n) s)

/-- `WrBits(n, v)` (R44). -/
def wrBits (stage : Opcode) {n : Nat} (v : BitVec n) (s : State) : Flow Unit :=
  (ioCall stage s).bind fun _ s => .ok () (appendBits (fieldBits v) s)

/-- `WrPath(p)`: `WrBits(1, p[0]); WrBits(1, p[1]); ...` (R44). -/
def wrPath (stage : Opcode) : Bits → State → Flow Unit
  | [], s => .ok () s
  | b :: p, s => (wrBits stage (BitVec.ofBool b) s).bind fun _ s => wrPath stage p s

/-- The zero bits that `Close()` appends to n bits (R44). -/
def padding (n : Nat) : Bits := List.replicate ((8 - n % 8) % 8) false

/-- OUT_BITS padded to a whole byte (R44). -/
def padOut (s : State) : State := appendBits (padding s.outBits.length) s

/-- `Close()` (R44). -/
def closeOut (stage : Opcode) (s : State) : Flow Unit :=
  (ioCall stage s).bind fun _ s => .ok () (padOut s)

/-- `WrByte(b)` (R46). -/
def wrByte (stage : Opcode) (b : Byte) (s : State) : Flow Unit :=
  (ioCall stage s).bind fun _ s => .ok () (appendBytes [b] s)

end Sys2Proof.Machine
end

