-- ==== Sys2Proof/Machine/Operands.lean ====
section
/-! DEFINITION. Operand assembly (spec/30_encoding.md R70): symbols from bytes and back, and the file image of bits. -/

namespace Sys2Proof.Machine

open Sys2Proof

/-- `(b1 << 8) | b2` (R70, 40_frequency_analyzer.md R80). -/
def symbolOf (b1 b2 : Byte) : Symbol := b1 ++ b2

/-- `hi8(s)` (00_scope.md R7). -/
def hi8 (s : Symbol) : Byte := s.extractLsb' 8 8

/-- `lo8(s)` (00_scope.md R7). -/
def lo8 (s : Symbol) : Byte := s.extractLsb' 0 8

/-- `symbols(X)` (40_frequency_analyzer.md R80): a single trailing byte is a symbol with low byte 0x00. -/
def symbols : List Byte → List Symbol
  | [] => []
  | [b] => [symbolOf b 0#8]
  | b1 :: b2 :: rest => symbolOf b1 b2 :: symbols rest

/-- The bytes of a symbol as DEC_BODY emits them: both while at least two bytes remain, else the high byte alone
(45_decoder.md R142). -/
def symbolBytes (remaining : Nat) (s : Symbol) : List Byte :=
  if 2 ≤ remaining then [hi8 s, lo8 s] else [hi8 s]

/-- The bit list of a file of bytes (20_memory.md R56). -/
def fileBits (bytes : List Byte) : Bits := bytes.flatMap fun b => fieldBits b

/-- The byte whose bits, from bit 7 down, are given (20_memory.md R56). -/
def byteOfBits (bs : Bits) : Byte := BitVec.ofNat 8 (bitsValue bs)

/-- The file of a bit list of whole bytes (20_memory.md R56). -/
def fileBytes : Bits → List Byte
  | b7 :: b6 :: b5 :: b4 :: b3 :: b2 :: b1 :: b0 :: rest =>
    byteOfBits [b7, b6, b5, b4, b3, b2, b1, b0] :: fileBytes rest
  | _ => []

end Sys2Proof.Machine
end

