-- ==== Sys2Proof/Machine/Control.lean ====
section
/-! DEFINITION. Control (spec/46_control.md): CLEAR. -/

namespace Sys2Proof.Machine

open Sys2Proof

/-- CLEAR (46_control.md R153): the reset state of 10_state.md R28, streams untouched. Never faults. -/
def clearUnit (s : State) : Flow Unit := .ok () (clearCore s)

/-- CLEAR, opcode 0x0 (46_control.md R153). -/
def execClear (s : State) : Host.Outcome State Fault Refusal := (clearUnit s).outcome

end Sys2Proof.Machine
end

