-- ==== Sys2Proof/Machine/Dictionary.lean ====
section
/-! DEFINITION. DictionaryCodec (spec/42_dictionary_codec.md): DICT_ENC, DICT_DEC. -/

namespace Sys2Proof.Machine

open Sys2Proof

/-- `walk(i, p)` (42_dictionary_codec.md R105): the pairs below node i in emission order, left subtree first. `none`
when the walk is deeper than `n` levels. -/
def walk (s : State) : Nat → NodeIdx → Bits → Option (List (Symbol × Bits))
  | 0, _, _ => none
  | n + 1, i, p =>
    match readNode s i with
    | .leaf sym _ => some [(sym, p)]
    | .internal _ l r =>
      match walk s n l (p ++ [false]) with
      | none => none
      | some left =>
        match walk s n r (p ++ [true]) with
        | none => none
        | some right => some (left ++ right)

/-- The pairs both dictionaries are made of: none for the empty tree, the 1-bit path `0` for a lone leaf (R108), else
`paths(ROOT)` (R105). `none` when the node store is cyclic below ROOT. -/
def treePaths (s : State) : Option (List (Symbol × Bits)) :=
  match s.root with
  | none => some []
  | some r =>
    match readNode s r with
    | .leaf sym _ => some [(sym, [false])]
    | .internal _ _ _ => walk s Config.walkDepth r []

/-- `treePaths` as a piece of a command. -/
def pathsOf (s : State) : Flow (List (Symbol × Bits)) :=
  match treePaths s with
  | none => .stop .walkDiverges
  | some ps => .ok ps s

/-- `for (s, p) in ...: CT[s] <- p`, in emission order, so the rightmost leaf of a symbol wins (R106, R110). -/
def fillCt (ps : List (Symbol × Bits)) (s : State) : State := ps.foldl (fun s e => writeCt e.1 e.2 s) s

/-- `for (s, p) in ...: DT[p] <- s` (R107). -/
def fillDt (ps : List (Symbol × Bits)) (s : State) : State := ps.foldl (fun s e => writeDt e.2 e.1 s) s

/-- The greatest length of a key of DT, 0 when it is empty (R107). -/
def longestKey (t : Table Bits Symbol) : Nat := t.foldl (fun m e => max m e.1.length) 0

/-- DICT_ENC (R106). -/
def dictEncUnit (s : State) : Flow Unit :=
  (require s.trv 0x4#4 s).bind fun _ s =>
    let s := { clearFlags devMask s with ct := [] }
    (pathsOf s).bind fun ps s => .ok () (setFlags devMask (fillCt ps s))

/-- DICT_ENC, opcode 0x4 (42_dictionary_codec.md R106). -/
def execDictEnc (s : State) : Host.Outcome State Fault Refusal := (dictEncUnit s).outcome

/-- `MAXDEPTH <- the greatest |p| over keys p of DT` (R107). -/
def setMaxDepth (s : State) : State := { s with maxDepth := BitVec.ofNat 17 (longestKey s.dt) }

/-- DICT_DEC (R107). -/
def dictDecUnit (s : State) : Flow Unit :=
  (require s.trv 0xB#4 s).bind fun _ s =>
    let s := { clearFlags ddvMask s with dt := [] }
    (pathsOf s).bind fun ps s => .ok () (setFlags ddvMask (setMaxDepth (fillDt ps s)))

/-- DICT_DEC, opcode 0xB (42_dictionary_codec.md R107). -/
def execDictDec (s : State) : Host.Outcome State Fault Refusal := (dictDecUnit s).outcome

end Sys2Proof.Machine
end

