-- ==== Sys2Proof/Machine/Serializer.lean ====
section
/-! DEFINITION. TreeSerializer (spec/43_tree_serializer.md): T_LEAF, T_MERGE, TREE_WR, TREE_RD. -/

namespace Sys2Proof.Machine

open Sys2Proof

/-! ### The two tokens -/

/-- `STACK[SP] <- i; SP <- SP + 1`. -/
def pushStack (i : NodeIdx) (s : State) : State := { s with stack := i :: s.stack }

/-- T_LEAF (43_tree_serializer.md R115): a leaf of weight 0 is pushed and REML goes down; CorruptStreamError when
REML = 0 (R122 c). -/
def tokenLeaf (sym : Symbol) (s : State) : Flow Unit :=
  if s.remL = 0#17 then .ended (raise .corruptStream 0xA#4 s)
  else
    (allocNode (.leaf sym 0#48) s).bind fun i s =>
      .ok () { pushStack i s with remL := s.remL - 1#17 }

/-- T_MERGE (R116): B is popped first and is the right child, A second and is the left; CorruptStreamError when
REMI = 0 or SP < 2 (R122 d, e). -/
def tokenMerge (s : State) : Flow Unit :=
  if s.remI = 0#17 then .ended (raise .corruptStream 0xA#4 s)
  else
    match s.stack with
    | b :: a :: below =>
      (allocNode (.internal 0#48 a b) { s with stack := below }).bind fun i s =>
        .ok () { pushStack i s with remI := s.remI - 1#17 }
    | _ => .ended (raise .corruptStream 0xA#4 s)

/-- Performs one token. -/
def performToken : Token → State → Flow Unit
  | .leaf sym, s => tokenLeaf sym s
  | .merge, s => tokenMerge s

/-- What a token leaves of TREE_RD's working state: it stays for the next token, but a fault ends the command and then
it is any value (10_state.md R25). -/
def tokenOutcome (m : Flow Unit) : Host.Outcome State Fault Refusal :=
  match m with
  | .ok _ s => .next s
  | .ended s => .next (releaseStack s)
  | .stop e => .fault e

/-- T_LEAF s (43_tree_serializer.md R115). -/
def execTLeaf (sym : Symbol) (s : State) : Host.Outcome State Fault Refusal := tokenOutcome (tokenLeaf sym s)

/-- T_MERGE (43_tree_serializer.md R116). -/
def execTMerge (s : State) : Host.Outcome State Fault Refusal := tokenOutcome (tokenMerge s)

/-! ### TREE_WR -/

/-- `ser(i)` (R117): the tokens of the subtree of node i in postorder. `none` when it is deeper than `n` levels. -/
def serialize (s : State) : Nat → NodeIdx → Option (List Token)
  | 0, _ => none
  | n + 1, i =>
    match readNode s i with
    | .leaf sym _ => some [.leaf sym]
    | .internal _ l r =>
      match serialize s n l with
      | none => none
      | some left =>
        match serialize s n r with
        | none => none
        | some right => some (left ++ right ++ [.merge])

/-- The tokens of the current tree: none for the empty tree (R117). -/
def treeTokens (s : State) : Option (List Token) :=
  match s.root with
  | none => some []
  | some r => serialize s Config.walkDepth r

/-- One token on OUT_BITS: `WrBits(1, 1); WrBits(16, sym)` or `WrBits(1, 0)` (R117). -/
def writeToken : Token → State → Flow Unit
  | .leaf sym, s => (wrBits 0x6#4 1#1 s).bind fun _ s => wrBits 0x6#4 sym s
  | .merge, s => wrBits 0x6#4 0#1 s

/-- Tokens on OUT_BITS, in order. -/
def writeTokens : List Token → State → Flow Unit
  | [], s => .ok () s
  | t :: ts, s => (writeToken t s).bind fun _ s => writeTokens ts s

/-- TREE_WR (R117). -/
def treeWrUnit (s : State) : Flow Unit :=
  (require s.trv 0x6#4 s).bind fun _ s =>
    match treeTokens s with
    | none => .stop .walkDiverges
    | some ts => writeTokens ts s

/-- TREE_WR, opcode 0x6 (43_tree_serializer.md R117). -/
def execTreeWr (s : State) : Host.Outcome State Fault Refusal := (treeWrUnit s).outcome

/-! ### TREE_RD -/

/-- Reads one token (R121): the flag bit; for `1` the test of REML, then the 16 symbol bits (60_exceptions.md R169 d). -/
def readToken (s : State) : Flow Token :=
  (rdBits 0xA#4 1 s).bind fun f s =>
    if f = 1#1 then
      if s.remL = 0#17 then .ended (raise .corruptStream 0xA#4 s)
      else (rdBits 0xA#4 16 s).bind fun sym s => .ok (tokenOf true sym) s
    else .ok (tokenOf false 0#16) s

/-- `while REML > 0 or REMI > 0` (R121). Every token lowers REML + REMI by one, so `n` = REML + REMI passes are all. -/
def tokenLoop : Nat → State → Flow Unit
  | 0, s => .ok () s
  | n + 1, s =>
    if s.remL = 0#17 ∧ s.remI = 0#17 then .ok () s
    else (readToken s).bind fun t s => (performToken t s).bind fun _ s => tokenLoop n s

/-- The end of the loop of TREE_RD: `SP <- SP - 1; ROOT <- STACK[SP]; TRV <- 1` (R121). -/
def treeRdFinish (s : State) : Flow Unit :=
  match s.stack with
  | [] => .stop .emptyStack
  | r :: below => .ok () (setFlags trvMask { s with stack := below, root := some r, phase := .idle })

/-- The start of TREE_RD: TRV, DEV and DDV cleared, NCOUNT <- 0, SP <- 0 (R121). -/
def treeRdStart (s : State) : State :=
  { dropNodes (clearFlags (trvMask ||| devMask ||| ddvMask) s) with stack := [] }

/-- TREE_RD on a header with leaves: REML <- LEAFCNT, REMI <- LEAFCNT - 1, then the tokens (R121). -/
def treeRdTokens (s : State) : Flow Unit :=
  let s := { s with remL := s.leafCnt.setWidth 17, remI := (s.leafCnt - 1#32).setWidth 17 }
  (tokenLoop (s.remL.toNat + s.remI.toNat) s).bind fun _ s => treeRdFinish s

/-- TREE_RD (R121); with LEAFCNT = 0 no bit is read and the tree is empty (R125). -/
def treeRdUnit (s : State) : Flow Unit :=
  (require s.hrv 0xA#4 s).bind fun _ s =>
    let s := treeRdStart s
    (if s.leafCnt = 0#32 then .ok () (setFlags trvMask { s with root := none }) else treeRdTokens s).atEnd releaseStack

/-- TREE_RD, opcode 0xA (43_tree_serializer.md R121). -/
def execTreeRd (s : State) : Host.Outcome State Fault Refusal := (treeRdUnit s).outcome

end Sys2Proof.Machine
end

