-- ==== Sys2Proof/Machine/Decoder.lean ====
section
/-! DEFINITION. Decoder (spec/45_decoder.md): HDR_RD, DEC_BODY, DECOMPRESS. -/

namespace Sys2Proof.Machine

open Sys2Proof

/-- The two checks of HDR_RD, in order, then HRV (45_decoder.md R141, 60_exceptions.md R169 c). -/
def checkHeader (s : State) : Flow Unit :=
  if Config.maxLeaves < s.leafCnt.toNat then .ended (raise .corruptStream 0x9#4 s)
  else if s.leafCnt = 0#32 ∧ s.total ≠ 0#32 then .ended (raise .corruptStream 0x9#4 s)
  else .ok () (setFlags hrvMask s)

/-- HDR_RD (R141): on a fault TOTAL and LEAFCNT keep whatever was read. -/
def hdrRdUnit (s : State) : Flow Unit :=
  (rdBits 0x9#4 32 { s with flags := 0#5 }).bind fun n s =>
    (rdBits 0x9#4 32 { s with total := n }).bind fun l s => checkHeader { s with leafCnt := l }

/-- HDR_RD, opcode 0x9 (45_decoder.md R141). -/
def execHdrRd (s : State) : Host.Outcome State Fault Refusal := (hdrRdUnit s).outcome

/-- `WrByte` for each byte, in order. -/
def wrBytes (stage : Opcode) : List Byte → State → Flow Unit
  | [], s => .ok () s
  | b :: bs, s => (wrByte stage b s).bind fun _ s => wrBytes stage bs s

/-- A matched symbol: its bytes go out, REM goes down by as many, PATHBUF <- [] (R142). -/
def emitSymbol (sym : Symbol) (s : State) : Flow Unit :=
  let out := symbolBytes s.rem.toNat sym
  (wrBytes 0xC#4 out s).bind fun _ s =>
    .ok () { s with rem := s.rem - BitVec.ofNat 32 out.length, pathBuf := [] }

/-- The loop of DEC_BODY (R142), at most `n` bits. The overflow test stands after each bit that gives no match (R146 b). -/
def decBodyLoop : Nat → State → Flow Unit
  | 0, _ => .stop .loopBound
  | n + 1, s =>
    if s.rem = 0#32 then .ok () s
    else
      (rdBits 0xC#4 1 s).bind fun b s =>
        let s := { s with pathBuf := s.pathBuf ++ fieldBits b }
        match readDt s s.pathBuf with
        | some sym => (emitSymbol sym s).bind fun _ s => decBodyLoop n s
        | none =>
          if s.maxDepth.toNat < s.pathBuf.length then .ended (raise .corruptStream 0xC#4 s)
          else decBodyLoop n s

/-- DEC_BODY (R142). Every pass of the loop consumes a bit, so the bound is never met. -/
def decBodyUnit (s : State) : Flow Unit :=
  (require (s.hrv && s.ddv) 0xC#4 s).bind fun _ s =>
    (decBodyLoop (s.inBits.bits.length - s.inBits.pos + 1)
      { s with rem := s.total, pathBuf := [] }).atEnd releasePath

/-- DEC_BODY, opcode 0xC (45_decoder.md R142). -/
def execDecBody (s : State) : Host.Outcome State Fault Refusal := (decBodyUnit s).outcome

/-- DECOMPRESS (R144): the stages in the source's order. -/
def decompressUnit (s : State) : Flow Unit :=
  (clearUnit s).bind fun _ s =>
    (hdrRdUnit s).bind fun _ s =>
      (treeRdUnit s).bind fun _ s =>
        (dictDecUnit s).bind fun _ s => decBodyUnit s

/-- DECOMPRESS, opcode 0xD (45_decoder.md R144). -/
def execDecompress (s : State) : Host.Outcome State Fault Refusal := (decompressUnit s).outcome

end Sys2Proof.Machine
end

