-- ==== Sys2Proof/Machine/Analyzer.lean ====
section
/-! DEFINITION. FrequencyAnalyzer (spec/40_frequency_analyzer.md): FT_WRITE, ANALYZE. -/

namespace Sys2Proof.Machine

open Sys2Proof

/-- FT_WRITE sym, count (40_frequency_analyzer.md R82). Never faults. -/
def ftWriteUnit (sym : Symbol) (count : Word32) (s : State) : Flow Unit :=
  .ok () (writeFt sym count { s with flags := 0#5 })

/-- FT_WRITE, opcode 0x1 (40_frequency_analyzer.md R82). -/
def execFtWrite (sym : Symbol) (count : Word32) (s : State) : Host.Outcome State Fault Refusal :=
  (ftWriteUnit sym count s).outcome

/-- `FT[sym] <- FT[sym] + 1` (R81). -/
def bumpFt (sym : Symbol) (s : State) : State := writeFt sym (readFt s sym + 1#32) s

/-- `if TOTAL = 2^32 - 1: raise LengthOverflow; TOTAL <- TOTAL + 1` (R81). -/
def countByte (s : State) : Flow Unit :=
  if s.total = 0xFFFFFFFF#32 then .ended (raise .lengthOverflow 0x2#4 s)
  else .ok () { s with total := s.total + 1#32 }

/-- The loop of ANALYZE (R81), at most `n` passes. -/
def analyzeLoop : Nat → State → Flow Unit
  | 0, _ => .stop .loopBound
  | n + 1, s =>
    (rdByte 0x2#4 s).bind fun b1 s =>
      match b1 with
      | none => .ok () s
      | some b1 =>
        (countByte s).bind fun _ s =>
          (rdByte 0x2#4 s).bind fun b2 s =>
            match b2 with
            | none => .ok () (bumpFt (symbolOf b1 0#8) s)
            | some b2 =>
              (countByte s).bind fun _ s => analyzeLoop n (bumpFt (symbolOf b1 b2) s)

/-- The start of ANALYZE: the flags, FT and TOTAL cleared, then `Rewind()` (R81). -/
def analyzeStart (s : State) : State := rewind { s with flags := 0#5, ft := [], total := 0#32 }

/-- ANALYZE (R81). Every pass of the loop but the last consumes two bytes, so the bound is never met. -/
def analyzeUnit (s : State) : Flow Unit :=
  let s := analyzeStart s
  (analyzeLoop (s.inBytes.bytes.length + 1) s).bind fun _ s => .ok () (setFlags favMask s)

/-- ANALYZE, opcode 0x2 (40_frequency_analyzer.md R81). -/
def execAnalyze (s : State) : Host.Outcome State Fault Refusal := (analyzeUnit s).outcome

end Sys2Proof.Machine
end

