-- ==== Sys2Proof/Machine/Builder.lean ====
section
/-! DEFINITION. TreeBuilder (spec/41_tree_builder.md): the priority queue, the merge scheduler and BUILD. -/

namespace Sys2Proof.Machine

open Sys2Proof

/-- A node's weight. -/
def nodeWeight : Node → Weight
  | .leaf _ w => w
  | .internal w _ _ => w

/-- `NODE[i].weight`. -/
def weightOf (s : State) (i : NodeIdx) : Weight := nodeWeight (readNode s i)

/-- `key(i) < key(j)` for `key(i) = (NODE[i].weight, i)` (41_tree_builder.md R92). -/
def keyBefore (s : State) (i j : NodeIdx) : Bool :=
  decide ((weightOf s i).toNat < (weightOf s j).toNat) ||
    (decide (weightOf s i = weightOf s j) && decide (i.toNat < j.toNat))

/-- The index with the least key, `m` the least so far. -/
def leastFrom (s : State) (m : NodeIdx) : List NodeIdx → NodeIdx
  | [] => m
  | i :: rest => leastFrom s (if keyBefore s i m then i else m) rest

/-- PQ_INSERT(i) (R93). How the set is stored is not architectural (R91). -/
def pqInsert (i : NodeIdx) (s : State) : State := { s with pq := i :: s.pq }

/-- PQ_EXTRACT_MIN (R94). -/
def pqExtractMin (s : State) : Flow NodeIdx :=
  match s.pq with
  | [] => .stop .emptyQueue
  | i :: rest =>
    let m := leastFrom s i rest
    .ok m { s with pq := s.pq.erase m }

/-- MERGE_STEP (R95): the first extracted is the left child, the weight is the sum of both. -/
def mergeStep (s : State) : Flow Unit :=
  (pqExtractMin s).bind fun a s =>
    (pqExtractMin s).bind fun b s =>
      (allocNode (.internal (weightOf s a + weightOf s b) a b) s).bind fun i s => .ok () (pqInsert i s)

/-- `while |PQ| > 1: MERGE_STEP` (R96); each lowers |PQ| by one, so `n` = |PQ| passes are enough. -/
def mergeLoop : Nat → State → Flow Unit
  | 0, s => .ok () s
  | n + 1, s => if s.pq.length ≤ 1 then .ok () s else (mergeStep s).bind fun _ s => mergeLoop n s

/-- Seeding (R96): one leaf per entry of FT, in ascending symbol order (the order of the canonical table). -/
def seedLeaves : Table Symbol Word32 → State → Flow Unit
  | [], s => .ok () s
  | (sym, count) :: rest, s =>
    if count = 0#32 then seedLeaves rest s
    else
      (allocNode (.leaf sym (count.setWidth 48)) s).bind fun i s => seedLeaves rest (pqInsert i s)

/-- The start of BUILD: TRV, DEV, DDV and HRV cleared (FAV unchanged), NCOUNT <- 0, PQ <- {} (R96). -/
def buildStart (s : State) : State :=
  { dropNodes (clearFlags (trvMask ||| devMask ||| ddvMask ||| hrvMask) s) with pq := [] }

/-- BUILD after seeding: the empty tree for an empty table (R98), else merging until one node remains (R96). -/
def buildTree (s : State) : Flow Unit :=
  let s := { s with leafCnt := s.nCount.setWidth 32 }
  if s.leafCnt = 0#32 then .ok () { s with root := none }
  else
    (mergeLoop s.pq.length s).bind fun _ s =>
      (pqExtractMin s).bind fun r s => .ok () { s with root := some r }

/-- BUILD (R96). PQ is meaningless after it (R91). -/
def buildUnit (s : State) : Flow Unit :=
  let s := buildStart s
  ((seedLeaves s.ft s).bind fun _ s =>
    (buildTree s).bind fun _ s => .ok () (setFlags trvMask s)).atEnd releasePq

/-- BUILD, opcode 0x3 (41_tree_builder.md R96). -/
def execBuild (s : State) : Host.Outcome State Fault Refusal := (buildUnit s).outcome

end Sys2Proof.Machine
end

