-- ==== Sys2Proof/Machine/Encoder.lean ====
section
/-! DEFINITION. Encoder (spec/44_encoder.md): HDR_WR, ENC_BODY, COMPRESS. -/

namespace Sys2Proof.Machine

open Sys2Proof

/-- HDR_WR (44_encoder.md R130). -/
def hdrWrUnit (s : State) : Flow Unit :=
  (require (s.fav && s.trv) 0x5#4 s).bind fun _ s =>
    (wrBits 0x5#4 s.total s).bind fun _ s => wrBits 0x5#4 s.leafCnt s

/-- HDR_WR, opcode 0x5 (44_encoder.md R130). -/
def execHdrWr (s : State) : Host.Outcome State Fault Refusal := (hdrWrUnit s).outcome

/-- `if CT[s] = INVALID: raise LookupMiss; WrPath(CT[s])` (R131). -/
def emitCode (sym : Symbol) (s : State) : Flow Unit :=
  match readCt s sym with
  | none => .ended (raise .lookupMiss 0x7#4 s)
  | some p => wrPath 0x7#4 p s

/-- The loop of ENC_BODY (R131), at most `n` passes. -/
def encBodyLoop : Nat → State → Flow Unit
  | 0, _ => .stop .loopBound
  | n + 1, s =>
    (rdByte 0x7#4 s).bind fun b1 s =>
      match b1 with
      | none => .ok () s
      | some b1 =>
        (rdByte 0x7#4 s).bind fun b2 s =>
          match b2 with
          | none => emitCode (symbolOf b1 0#8) s
          | some b2 => (emitCode (symbolOf b1 b2) s).bind fun _ s => encBodyLoop n s

/-- ENC_BODY (R131). Every pass of the loop but the last consumes two bytes, so the bound is never met. -/
def encBodyUnit (s : State) : Flow Unit :=
  (require (s.fav && s.dev) 0x7#4 s).bind fun _ s =>
    let s := rewind s
    encBodyLoop (s.inBytes.bytes.length + 1) s

/-- ENC_BODY, opcode 0x7 (44_encoder.md R131). -/
def execEncBody (s : State) : Host.Outcome State Fault Refusal := (encBodyUnit s).outcome

/-- COMPRESS (R134): the stages in the source's order, then `Close()`, whose fault has stage 0x7. -/
def compressUnit (s : State) : Flow Unit :=
  (clearUnit s).bind fun _ s =>
    (analyzeUnit s).bind fun _ s =>
      (buildUnit s).bind fun _ s =>
        (dictEncUnit s).bind fun _ s =>
          (hdrWrUnit s).bind fun _ s =>
            (treeWrUnit s).bind fun _ s =>
              (encBodyUnit s).bind fun _ s => closeOut 0x7#4 s

/-- COMPRESS, opcode 0x8 (44_encoder.md R134). -/
def execCompress (s : State) : Host.Outcome State Fault Refusal := (compressUnit s).outcome

end Sys2Proof.Machine
end

