-- ==== Sys2Proof/Machine/Dispatch.lean ====
section
/-! DEFINITION. exec: one arm per constructor of Instr, each a direct call of its meaning. -/

namespace Sys2Proof.Machine

open Sys2Proof

def exec (i : Instr) (s : State) : Host.Outcome State Fault Refusal :=
  match i with
  | .clear => Sys2Proof.Machine.execClear s
  | .ftWrite sym count => Sys2Proof.Machine.execFtWrite sym count s
  | .analyze => Sys2Proof.Machine.execAnalyze s
  | .build => Sys2Proof.Machine.execBuild s
  | .dictEnc => Sys2Proof.Machine.execDictEnc s
  | .hdrWr => Sys2Proof.Machine.execHdrWr s
  | .treeWr => Sys2Proof.Machine.execTreeWr s
  | .encBody => Sys2Proof.Machine.execEncBody s
  | .compress => Sys2Proof.Machine.execCompress s
  | .hdrRd => Sys2Proof.Machine.execHdrRd s
  | .treeRd => Sys2Proof.Machine.execTreeRd s
  | .dictDec => Sys2Proof.Machine.execDictDec s
  | .decBody => Sys2Proof.Machine.execDecBody s
  | .decompress => Sys2Proof.Machine.execDecompress s
  | .tLeaf sym => Sys2Proof.Machine.execTLeaf sym s
  | .tMerge => Sys2Proof.Machine.execTMerge s

end Sys2Proof.Machine
end

