-- ==== Sys2Proof/Machine/Fetch.lean ====
section
/-! DEFINITION. What a step looks at next: the host's next event and, for a command word, dispatch (spec/46_control.md
R150, R151, R154); inside the token loop of TREE_RD, the next token of IN_BITS (spec/43_tree_serializer.md R121). -/

namespace Sys2Proof.Machine

open Sys2Proof

/-- What the next step does. -/
inductive Fetched where
  /-- An instruction runs on this state. -/
  | run (i : Instr) (s : State)
  /-- No instruction runs; this is the next state. -/
  | settled (s : State)
  /-- The model stops. -/
  | stop (f : Fault)
  deriving DecidableEq, Repr

/-- Dispatch of one command word (R150): in ERROR every word but CLEAR's has no effect (R151); a word that matches no row
raises IllegalCommand with bits 63:60 as ERR_STAGE (R154); else the instruction runs. -/
def dispatchWord (w : CmdWord) (s : State) : Fetched :=
  if s.isError && decide (w ≠ 0#64) then .settled s
  else
    match decode (.command w) with
    | .error _ => .settled (raise .illegalCommand (opField w) s)
    | .ok i => .run i s

/-- One event of the host's, already taken off its list. Log 11. -/
def hostEvent (e : HostEvent) (s : State) : Fetched :=
  match e with
  | .command w => dispatchWord w s
  | .reset => .settled (hardReset s)
  | .presentBytes passes =>
    .settled { s with inBytes := { bytes := passes.headD [], pos := 0, passes := passes } }
  | .presentBits bits => .settled { s with inBits := { bits := bits, pos := 0 } }
  | .openOutBits => .settled { s with outBits := [] }
  | .openOutBytes => .settled { s with outBytes := [] }
  | .closeOutBits => .settled (padOut s)

/-- The next token of the token loop of TREE_RD, or the loop's end (43_tree_serializer.md R121). Log 2. -/
def fetchToken (s : State) : Fetched :=
  if s.remL = 0#17 ∧ s.remI = 0#17 then
    match (treeRdFinish s).atEnd releaseStack with
    | .ok _ s => .settled s
    | .ended s => .settled s
    | .stop e => .stop e
  else
    match readToken s with
    | .ok t s => .run t.instr s
    | .ended s => .settled (releaseStack s)
    | .stop e => .stop e

/-- What the next step does. With no event listed the host has issued nothing and nothing changes (log 1). -/
def fetchNext (s : State) : Fetched :=
  match s.phase with
  | .treeLoop => fetchToken s
  | .idle =>
    match s.host with
    | [] => .settled s
    | e :: rest => hostEvent e { s with host := rest }

/-- A command word placed as the host's next event, in a CORE that will accept it (READY and idle). -/
def placeCommand (w : CmdWord) (s : State) : State :=
  { s with
    host := .command w :: s.host
    phase := .idle
    status := if s.isError then 0x00#8 else s.status
    errOffset := if s.isError then 0#64 else s.errOffset }

/-- Overwrites the bits of IN_BITS at the read position. -/
def overwriteBits (bs : Bits) (src : BitSource) : BitSource :=
  { src with
    bits := (src.bits ++ List.replicate (src.pos - src.bits.length) false).take src.pos ++ bs ++
      src.bits.drop (src.pos + bs.length) }

/-- A token placed at the read position of IN_BITS, in a CORE that stands at the top of the token loop with the counter
of that token not at zero, and with no fault on the two calls that read it. -/
def placeToken (bs : Bits) (s : State) : State :=
  { s with
    phase := .treeLoop
    inBits := overwriteBits bs s.inBits
    ioAnswers := false :: false :: s.ioAnswers
    remL := if bs.headD false && decide (s.remL = 0#17) then 1#17 else s.remL
    remI := if !bs.headD false && decide (s.remI = 0#17) then 1#17 else s.remI }

/-- Places the instruction of a word numbered as spec/opcode_table.json numbers it where the next step takes it from:
a 64-bit row is the host's next command word, a shorter row the next token of the token loop. Log 14. -/
def placeTableWord (s : State) (nbits w : Nat) : State :=
  if 64 ≤ nbits then placeCommand (BitVec.ofNat 64 w) s else placeToken (tableTokenBits nbits w) s

end Sys2Proof.Machine
end

