-- ==== Sys2Proof/Machine/Step.lean ====
section
/-! DEFINITION. One step: take what comes next (Machine/Fetch.lean) and, if it is an instruction, run it. -/

namespace Sys2Proof.Machine

open Sys2Proof

/-- One step of the machine: one host event, or one token of a token loop (spec/00_scope.md R6, spec/46_control.md R150). -/
def step (s : State) : Host.Outcome State Fault Refusal :=
  match fetchNext s with
  | .run i s => exec i s
  | .settled s => .next s
  | .stop e => .fault e

/-- The state with an instruction placed where the next step takes it from (log 14). -/
def State.withFetchWord (s : State) (nbits w : Nat) : State := placeTableWord s nbits w

end Sys2Proof.Machine
end

