-- ==== Sys2Proof/WellFormed.lean ====
section
/-! DEFINITION. Well-formedness. The operands of an instruction are bit vectors of their fields' widths and the spec
makes every value of them legal (spec/30_encoding.md R61 for SYM and COUNT, R65 for the symbol of T_LEAF), so an
instruction is well formed as it stands. What the spec does make ill-formed are CODES (R63, R65, R66) and SEQUENCES of
tokens (the grammar of R67); those are the checks below. -/

namespace Sys2Proof

/-- A command word is legal when it matches a row of R62, which R63 spells out: the opcode is one of 0x0 to 0xD, and
the bits that must be zero are zero. -/
def commandWellFormed (w : CmdWord) : Bool :=
  decide ((opField w).toNat ≤ 0xD) &&
    (if opField w = 0x1#4 then decide (reservedField w = 0#12) else decide (operandField w = 0#60))

/-- The bits of one token: `0` alone, or `1` and exactly 16 bits (R65, R66). -/
def tokenWellFormed : Bits → Bool
  | [] => false
  | flag :: rest => rest.length == payloadWidth flag

/-- A code is well formed when it is the code of one instruction. -/
def codeWellFormed : Code → Bool
  | .command w => commandWellFormed w
  | .token bits => tokenWellFormed bits

/-- Whether an instruction is a token of a serialized tree and no command of the host's. -/
def Instr.isToken : Instr → Bool
  | .tLeaf _ => true
  | .tMerge => true
  | _ => false

/-- Reads tokens with `depth` subtrees already complete: the number of complete subtrees at the end, or none where a
T_MERGE finds fewer than two. -/
def treeDepth (depth : Nat) : List Token → Option Nat
  | [] => some depth
  | .leaf _ :: ts => treeDepth (depth + 1) ts
  | .merge :: ts => if depth < 2 then none else treeDepth (depth - 1) ts

/-- A token sequence is the postorder of one tree, `tree := T_LEAF | tree tree T_MERGE` (R67). -/
def treeWellFormed (ts : List Token) : Bool := treeDepth 0 ts == some 1

end Sys2Proof
end

