-- ==== Sys2Proof/Safety.lean ====
section
/-! DEFINITION. The terms claims are stated in: quiet streams, the tree a node store holds, and the invariant of the
CORE's state (spec/10_state.md R13, R15, R16, R21, spec/43_tree_serializer.md R124). -/

namespace Sys2Proof.Machine

open Sys2Proof

/-! ### Streams -/

/-- No call answers IOFAULT (20_memory.md R47). -/
abbrev State.quiet (s : State) : Prop := ∀ a ∈ s.ioAnswers, a = false

/-- The bits of IN_BITS from the read position on. -/
def State.bitsAhead (s : State) : Bits := s.inBits.bits.drop s.inBits.pos

/-- The bytes the next pass over IN_BYTES delivers. -/
def State.nextPass (s : State) : List Byte := (rewind s).inBytes.bytes

/-- Both passes of a compression deliver these bytes (70_reset_and_hazards.md R188). -/
abbrev State.delivers (s : State) (X : List Byte) : Prop := s.nextPass = X ∧ (rewind s).nextPass = X

/-! ### Trees -/

/-- A strict binary tree with symbols at its leaves (00_scope.md R9), apart from any node store. -/
inductive CodeTree where
  | leaf (sym : Symbol)
  | node (left right : CodeTree)
  deriving DecidableEq, Repr

/-- The number of leaves. -/
def CodeTree.leaves : CodeTree → Nat
  | .leaf _ => 1
  | .node l r => l.leaves + r.leaves

/-- The symbols at the leaves, left to right. -/
def CodeTree.syms : CodeTree → List Symbol
  | .leaf sym => [sym]
  | .node l r => l.syms ++ r.syms

/-- The tokens of the tree in postorder (30_encoding.md R67). -/
def CodeTree.tokens : CodeTree → List Token
  | .leaf sym => [.leaf sym]
  | .node l r => l.tokens ++ r.tokens ++ [.merge]

/-- The bits of the serialized tree. -/
def CodeTree.tokenBits (T : CodeTree) : Bits := T.tokens.flatMap encodeToken

/-- The (symbol, path) pairs of the tree in emission order (42_dictionary_codec.md R105). -/
def CodeTree.paths : CodeTree → List (Symbol × Bits)
  | .leaf sym => [(sym, [])]
  | .node l r =>
    l.paths.map (fun e => (e.1, false :: e.2)) ++ r.paths.map (fun e => (e.1, true :: e.2))

/-- The code words of the tree: its paths, but the 1-bit path `0` for a lone leaf (R108). -/
def CodeTree.codes : CodeTree → List (Symbol × Bits)
  | .leaf sym => [(sym, [false])]
  | .node l r => (CodeTree.node l r).paths

/-- Node i of the node store is the root of a copy of the tree. -/
def CodeTree.standsAt (s : State) : CodeTree → NodeIdx → Bool
  | .leaf sym, i =>
    match readNode s i with
    | .leaf sym' _ => decide (sym' = sym)
    | .internal _ _ _ => false
  | .node l r, i =>
    match readNode s i with
    | .leaf _ _ => false
    | .internal _ a b => l.standsAt s a && r.standsAt s b

/-- The state's current tree is this tree. -/
def State.hasTree (s : State) (T : CodeTree) : Bool :=
  match s.root with
  | none => false
  | some r => T.standsAt s r

/-- The code word a CT gives a symbol, empty for INVALID. -/
def State.codeOf (s : State) (sym : Symbol) : Bits := (readCt s sym).getD []

/-! ### The invariant -/

/-- `ST = 0` implies `ERR = 0`, `ERR_STAGE = 0` and ERR_OFFSET = 0; `ST = 1` implies ERR is in 1 to 6 (R13, R14). -/
def statusLegal (s : State) : Bool :=
  if s.isError then decide (1 ≤ s.err.toNat) && decide (s.err.toNat ≤ 6)
  else decide (s.status = 0#8) && decide (s.errOffset = 0#64)

/-- FAV and HRV are never both 1; DEV and DDV imply TRV (R16). -/
def flagsLegal (s : State) : Bool := !(s.fav && s.hrv) && (!s.dev || s.trv) && (!s.ddv || s.trv)

/-- A header that HRV calls accepted passes the checks of HDR_RD (45_decoder.md R141). -/
def headerLegal (s : State) : Bool :=
  !s.hrv || (decide (s.leafCnt.toNat ≤ Config.maxLeaves) && (decide (s.leafCnt ≠ 0#32) || decide (s.total = 0#32)))

/-- The entries of NODE in use are exactly 0 to NCOUNT - 1, at most 131071 (R20, R24). -/
def nodesLegal (s : State) : Bool :=
  decide (s.node.map (fun e => e.1.toNat) = List.range s.nCount.toNat) && decide (s.nCount.toNat ≤ Config.maxNodes)

/-- `left` and `right` of an Internal node are smaller than the node's own index (R21). -/
def childrenBelow (s : State) : Bool :=
  s.node.all fun e =>
    match e.2 with
    | .leaf _ _ => true
    | .internal _ l r => decide (l.toNat < e.1.toNat) && decide (r.toNat < e.1.toNat)

/-- A complete tree is the empty one, or its root is the node created last and NCOUNT = 2 LEAFCNT - 1 (R17, R21). -/
def treeLegal (s : State) : Bool :=
  !s.trv ||
    match s.root with
    | none => decide (s.leafCnt = 0#32) && decide (s.nCount = 0#18)
    | some r =>
      decide (r.toNat + 1 = s.nCount.toNat) && decide (s.nCount.toNat + 1 = 2 * s.leafCnt.toNat)

/-- The loop invariant of TREE_RD (43_tree_serializer.md R124), and the stack holds indices in use, the newest on top. -/
def loopLegal (s : State) : Bool :=
  match s.phase with
  | .idle => true
  | .treeLoop =>
    !s.isError && s.hrv && !s.trv &&
      decide (s.stack.length + s.remL.toNat = s.remI.toNat + 1) &&
      decide (s.nCount.toNat + s.remL.toNat + s.remI.toNat + 1 = 2 * s.leafCnt.toNat) &&
      s.stack.all (fun i => decide (i.toNat < s.nCount.toNat)) &&
      match s.stack with
      | [] => true
      | i :: _ => decide (i.toNat + 1 = s.nCount.toNat)

/-- The invariant of the CORE's state. -/
def State.inv (s : State) : Bool :=
  statusLegal s && flagsLegal s && headerLegal s && Memory.wf s && nodesLegal s && childrenBelow s && treeLegal s &&
    loopLegal s

/-- DEV and DDV mean what 10_state.md R15 says: CT, and DT with MAXDEPTH, hold the dictionaries of the current tree. -/
def dictionariesMatch (s : State) : Bool :=
  (!s.dev ||
    match treePaths s with
    | none => false
    | some ps => decide (s.ct = (fillCt ps { s with ct := [] }).ct)) &&
  (!s.ddv ||
    match treePaths s with
    | none => false
    | some ps =>
      decide (s.dt = (fillDt ps { s with dt := [] }).dt) && decide (s.maxDepth = BitVec.ofNat 17 (longestKey s.dt)))

/-- FAV means that FT counts a whole input of TOTAL bytes: 2 (sum of FT) - (TOTAL mod 2) = TOTAL (R19). -/
def countsMatch (s : State) : Bool :=
  !s.fav || decide (2 * (s.ft.map fun e => e.2.toNat).sum = s.total.toNat + s.total.toNat % 2)

/-! ### Faults -/

/-- The kinds of fault each instruction can raise, each with the stage it is reported under (60_exceptions.md R160,
10_state.md R13): its own opcode, and for a macro command the stages'. -/
def faultsOf : Instr → List (ErrKind × Opcode)
  | .clear => []
  | .ftWrite _ _ => []
  | .analyze => [(.ioError, 0x2#4), (.lengthOverflow, 0x2#4)]
  | .build => []
  | .dictEnc => [(.sequenceError, 0x4#4)]
  | .hdrWr => [(.sequenceError, 0x5#4), (.ioError, 0x5#4)]
  | .treeWr => [(.sequenceError, 0x6#4), (.ioError, 0x6#4)]
  | .encBody => [(.sequenceError, 0x7#4), (.ioError, 0x7#4), (.lookupMiss, 0x7#4)]
  | .compress =>
    [(.ioError, 0x2#4), (.lengthOverflow, 0x2#4), (.ioError, 0x5#4), (.ioError, 0x6#4), (.ioError, 0x7#4),
      (.lookupMiss, 0x7#4)]
  | .hdrRd => [(.ioError, 0x9#4), (.corruptStream, 0x9#4)]
  | .treeRd => [(.sequenceError, 0xA#4), (.ioError, 0xA#4), (.corruptStream, 0xA#4)]
  | .dictDec => [(.sequenceError, 0xB#4)]
  | .decBody => [(.sequenceError, 0xC#4), (.ioError, 0xC#4), (.corruptStream, 0xC#4)]
  | .decompress =>
    [(.ioError, 0x9#4), (.corruptStream, 0x9#4), (.ioError, 0xA#4), (.corruptStream, 0xA#4), (.ioError, 0xC#4),
      (.corruptStream, 0xC#4)]
  | .tLeaf _ => [(.corruptStream, 0xA#4)]
  | .tMerge => [(.corruptStream, 0xA#4)]

/-- STATUS after an instruction that raises no fault: as before, but 0x00 for CLEAR and the two macro commands, which begin
with its effect (46_control.md R153, 44_encoder.md R134, 45_decoder.md R144). -/
def statusKept (i : Instr) (s : State) : BitVec 8 :=
  match i with
  | .clear => 0#8
  | .compress => 0#8
  | .decompress => 0#8
  | _ => s.status

/-- A list of code words that DEC_BODY matches one after the other: each is a key of DT for its symbol, no longer than
MAXDEPTH, and no shorter non-empty prefix of it is a key. -/
abbrev State.matchesEach (s : State) (picks : List (Symbol × Bits)) : Prop :=
  ∀ e ∈ picks, e.2 ≠ [] ∧ e.2.length ≤ s.maxDepth.toNat ∧ readDt s e.2 = some e.1 ∧
    ∀ q ∈ e.2.inits, q ≠ e.2 → q ≠ [] → readDt s q = none

/-- The bits of a list of code words. -/
def pickBits (picks : List (Symbol × Bits)) : Bits := picks.flatMap fun e => e.2

/-- The bytes of a list of code words' symbols, two each. -/
def pickBytes (picks : List (Symbol × Bits)) : List Byte := picks.flatMap fun e => [hi8 e.1, lo8 e.1]

end Sys2Proof.Machine
end

