-- ==== Sys2Proof/Certificates/Slice0/Obligations.lean ====
section
/-! DEFINITION. The statements for the provers, from the numbered rules of spec/. Each docstring names the rule or
section it formalises. -/

open Sys2Proof Sys2Proof.Machine

/-! ### Encoding -/

/-- 30_encoding.md R61, R62, R65, R66: decoding what the encoder wrote gives the instruction back, with every operand at
every value. -/
def Obligations.DecodeOfEncodeIsTheInstruction : Prop :=
  ∀ i : Instr, decode (encode i) = .ok i

/-- 30_encoding.md R62, R63, R65, R66: a code that decodes is the one code of its instruction, so no two codes share a
meaning. -/
def Obligations.EveryCodeOfAnInstructionIsItsEncoding : Prop :=
  ∀ (c : Code) (i : Instr), decode c = .ok i → encode i = c

/-- 30_encoding.md R62, R65, R66: a few words written out from the opcode table decode to their instructions. -/
def Obligations.WrittenOutWordsDecode : Prop :=
  decode (.command 0x0000000000000000#64) = .ok .clear ∧
  decode (.command 0x1414200000005000#64) = .ok (.ftWrite 0x4142#16 5#32) ∧
  decode (.command 0x3000000000000000#64) = .ok .build ∧
  decode (.command 0xA000000000000000#64) = .ok .treeRd ∧
  decode (.token [true, false, true, false, false, false, false, false, true, false, true, false, false, false, false,
    true, false]) = .ok (.tLeaf 0x4142#16) ∧
  decode (.token [false]) = .ok .tMerge

/-- 30_encoding.md R71: the flag bit alone tells where a token ends, whatever follows it. -/
def Obligations.TokenEndsWhereItsFlagSays : Prop :=
  ∀ (t : Token) (rest : Bits), decodeToken (encodeToken t ++ rest) = .ok (t, rest)

/-- 30_encoding.md R67: the tokens of a tree are a well-formed sequence of 18 L - 1 bits with L leaves. -/
def Obligations.TreeTokensAreWellFormedAndHaveTheStatedLength : Prop :=
  ∀ T : CodeTree, treeWellFormed T.tokens = true ∧ T.tokenBits.length + 1 = 18 * T.leaves

/-! ### Dispatch, faults, CLEAR, reset -/

/-- 46_control.md R150: a step with a command word next, idle, and READY or the CLEAR word, runs the decoded instruction on
the state with the word taken off the host's list; nothing else is added around exec. -/
def Obligations.StepRunsTheDecodedCommand : Prop :=
  ∀ (s : State) (w : CmdWord) (rest : List HostEvent) (i : Instr),
    s.phase = .idle → s.host = .command w :: rest → (s.isError = false ∨ w = 0#64) →
    decode (.command w) = .ok i →
    step s = exec i { s with host := rest }

/-- 43_tree_serializer.md R121: at the top of the token loop with a counter positive, a step reads the next token of
IN_BITS and runs it on the state with its bits consumed. -/
def Obligations.StepRunsTheNextToken : Prop :=
  ∀ (s : State) (t : Token) (rest : Bits),
    s.phase = .treeLoop → (s.remL ≠ 0#17 ∨ s.remI ≠ 0#17) → (s.remL = 0#17 → t = .merge) → s.quiet →
    s.bitsAhead = encodeToken t ++ rest →
    step s = exec t.instr
      { s with
        inBits := { s.inBits with pos := s.inBits.pos + (encodeToken t).length }
        ioAnswers := s.ioAnswers.drop (match t with | .leaf _ => 2 | .merge => 1) }

/-- 46_control.md R151: in ERROR every command word but CLEAR's leaves all state and all streams unchanged. -/
def Obligations.ErrorStateIgnoresEveryWordButClear : Prop :=
  ∀ (s : State) (w : CmdWord) (rest : List HostEvent),
    s.phase = .idle → s.host = .command w :: rest → s.isError = true → w ≠ 0#64 →
    step s = .next { s with host := rest }

/-- 46_control.md R154 with 30_encoding.md R63: in READY, a word with OP 0xE or 0xF, or another OP than 0x1 and a bit of
59:0 set, or OP 0x1 and a bit of 11:0 set, raises IllegalCommand with bits 63:60 as ERR_STAGE; no other state changes. Every
other word is legal. -/
def Obligations.IllegalWordsRaiseIllegalCommand : Prop :=
  ∀ (s : State) (w : CmdWord) (rest : List HostEvent),
    s.phase = .idle → s.host = .command w :: rest → s.isError = false →
    ((0xE ≤ (w.extractLsb' 60 4).toNat ∨ (w.extractLsb' 60 4 ≠ 1#4 ∧ w.extractLsb' 0 60 ≠ 0#60) ∨
        (w.extractLsb' 60 4 = 1#4 ∧ w.extractLsb' 0 12 ≠ 0#12)) →
      step s = .next
        { s with
          host := rest
          status := w.extractLsb' 60 4 ++ 3#3 ++ 1#1
          errOffset := Config.errOffset s.draws
          draws := s.draws + 1 }) ∧
    (¬(0xE ≤ (w.extractLsb' 60 4).toNat ∨ (w.extractLsb' 60 4 ≠ 1#4 ∧ w.extractLsb' 0 60 ≠ 0#60) ∨
        (w.extractLsb' 60 4 = 1#4 ∧ w.extractLsb' 0 12 ≠ 0#12)) →
      ∃ i, decode (.command w) = .ok i)

/-- 46_control.md R152: a command whose prerequisite flags are not all 1 raises SequenceError with its own opcode as stage,
and has no other effect. -/
def Obligations.MissingPrerequisiteRaisesSequenceError : Prop :=
  ∀ s : State,
    (s.trv = false → exec .dictEnc s = .next (raise .sequenceError 0x4#4 s)) ∧
    (s.trv = false → exec .dictDec s = .next (raise .sequenceError 0xB#4 s)) ∧
    (s.trv = false → exec .treeWr s = .next (raise .sequenceError 0x6#4 s)) ∧
    ((s.fav = false ∨ s.trv = false) → exec .hdrWr s = .next (raise .sequenceError 0x5#4 s)) ∧
    ((s.fav = false ∨ s.dev = false) → exec .encBody s = .next (raise .sequenceError 0x7#4 s)) ∧
    (s.hrv = false → exec .treeRd s = .next (raise .sequenceError 0xA#4 s)) ∧
    ((s.hrv = false ∨ s.ddv = false) → exec .decBody s = .next (raise .sequenceError 0xC#4 s))

/-- 60_exceptions.md R170 and 10_state.md R13: fault entry writes ST = 1, ERR = the code of the fault and ERR_STAGE,
ERR_OFFSET takes the free value, everything else stays (the draw counter and the sequencer's phase are the model's own),
and what would follow in the command does not happen. -/
def Obligations.FaultEntryWritesStatusAndEndsTheCommand : Prop :=
  ∀ (k : ErrKind) (stage : Opcode) (s : State),
    (raise k stage s).isError = true ∧
    (raise k stage s).err =
      (match k with
        | .ioError => 1#3 | .corruptStream => 2#3 | .illegalCommand => 3#3
        | .sequenceError => 4#3 | .lookupMiss => 5#3 | .lengthOverflow => 6#3) ∧
    (raise k stage s).errStage = stage ∧
    raise k stage s =
      { s with
        status := (raise k stage s).status, errOffset := Config.errOffset s.draws
        draws := s.draws + 1, phase := .idle } ∧
    ∀ (β : Type) (next : Unit → State → Flow β), (Flow.ended (raise k stage s)).bind next = .ended (raise k stage s)

/-- 60_exceptions.md R161, 20_memory.md R47: a stream call that answers IOFAULT raises IoError at once, before any effect of
that call. -/
def Obligations.IoFaultRaisesIoErrorBeforeAnyEffect : Prop :=
  ∀ (stage : Opcode) (s : State) (rest : List Bool), s.ioAnswers = true :: rest →
    rdByte stage s = .ended (raise .ioError stage { s with ioAnswers := rest }) ∧
    (∀ n, rdBits stage n s = .ended (raise .ioError stage { s with ioAnswers := rest })) ∧
    (∀ (n : Nat) (v : BitVec n), wrBits stage v s = .ended (raise .ioError stage { s with ioAnswers := rest })) ∧
    (∀ b, wrByte stage b s = .ended (raise .ioError stage { s with ioAnswers := rest })) ∧
    closeOut stage s = .ended (raise .ioError stage { s with ioAnswers := rest })

/-- 46_control.md section 2 with 10_state.md section 7: CLEAR is accepted in READY and in ERROR, and gives the registers
and tables of 10_state.md R28; the streams and their positions are not touched; CLEAR in reset state changes nothing.
Working state that the command does not use stays as it was: the model's choice, log 8. That NODE then lists no entry
is the model's form of 'contents unspecified', log 6. -/
def Obligations.ClearReturnsToResetState : Prop :=
  (∀ s : State, exec .clear s = .next
    { s with
      status := 0x00#8, errOffset := 0#64, flags := 0#5, total := 0#32, leafCnt := 0#32, root := none
      nCount := 0#18, maxDepth := 0#17, ft := [], ct := [], dt := [], node := [] }) ∧
  (∀ (s : State) (rest : List HostEvent), s.phase = .idle → s.host = .command 0#64 :: rest →
    step s = exec .clear { s with host := rest }) ∧
  (∀ s t : State, exec .clear s = .next t →
    (∀ sym, readFt t sym = 0#32) ∧ (∀ sym, readCt t sym = none) ∧ (∀ p, readDt t p = none)) ∧
  exec .clear State.reset = .next State.reset

/-- 70_reset_and_hazards.md R185: reset gives the registers and tables of the state after reset and does not touch the
streams. The working state is unspecified after it. -/
def Obligations.ResetGivesTheResetState : Prop :=
  ∀ (s : State) (rest : List HostEvent), s.phase = .idle → s.host = .reset :: rest →
    ∃ t, step s = .next t ∧
      t = { State.reset with
        inBytes := s.inBytes, outBits := s.outBits, inBits := s.inBits, outBytes := s.outBytes
        ioAnswers := s.ioAnswers, host := rest
        pq := t.pq, stack := t.stack, remL := t.remL, remI := t.remI, rem := t.rem, pathBuf := t.pathBuf
        draws := t.draws }

/-- 60_exceptions.md section 1 (R160) with 10_state.md R13: an instruction that answers a next state raised none but its own
kinds of fault, under the stage each is reported with, or none, and then STATUS is as it was (CLEAR and the two macro
commands: 0x00). -/
def Obligations.EachInstructionRaisesOnlyItsFaults : Prop :=
  ∀ (i : Instr) (s t : State), exec i s = .next t →
    t.status = statusKept i s ∨ ∃ e ∈ faultsOf i, t.status = statusWord e.1 e.2

/-! ### FrequencyAnalyzer -/

/-- 40_frequency_analyzer.md R82: FT_WRITE clears all five flags and writes one entry; count 0 removes it; every other
entry, register, table and stream stays. Working state that the command does not use stays as it was: the model's
choice, log 8. -/
def Obligations.FtWriteLoadsOneEntry : Prop :=
  ∀ (sym : Symbol) (count : Word32) (s : State), Memory.wf s = true →
    ∃ t, exec (.ftWrite sym count) s = .next t ∧
      t = { s with flags := 0#5, ft := t.ft } ∧
      readFt t sym = count ∧ ∀ sym', sym' ≠ sym → readFt t sym' = readFt s sym'

/-- 40_frequency_analyzer.md section 2 (the result of ANALYZE stated as a function): TOTAL is the number of bytes, FT[s]
the number of positions of s in symbols(X), FAV alone is set, and only IN_BYTES moves. Working state that the command
does not use stays as it was: the model's choice, log 8. -/
def Obligations.AnalyzeCountsTheSymbols : Prop :=
  ∀ (s : State) (X : List Byte), s.quiet → s.nextPass = X → X.length ≤ 2 ^ 32 - 1 →
    ∃ t, exec .analyze s = .next t ∧
      t.total.toNat = X.length ∧ (∀ sym, (readFt t sym).toNat = (symbols X).count sym) ∧ t.flags = 0b00001#5 ∧
      t = { s with
        flags := t.flags, ft := t.ft, total := t.total, ioAnswers := t.ioAnswers
        inBytes := { (rewind s).inBytes with pos := X.length } }

/-- 40_frequency_analyzer.md section 2 and 60_exceptions.md section 1: an input of 2^32 bytes or more ends ANALYZE with
LengthOverflow, TOTAL at 2^32 - 1 and every flag 0. -/
def Obligations.AnalyzeOfTooLongAnInputOverflows : Prop :=
  ∀ s : State, s.quiet → 2 ^ 32 ≤ s.nextPass.length →
    ∃ t, exec .analyze s = .next t ∧ t.status = 0x2D#8 ∧ t.total = 0xFFFFFFFF#32 ∧ t.flags = 0#5

/-- 40_frequency_analyzer.md section 2 (writes FT, TOTAL, FLAGS; reads IN_BYTES): the frame of ANALYZE, faulting or not.
Working state that the command does not use stays as it was: the model's choice, log 8. -/
def Obligations.AnalyzeFrame : Prop :=
  ∀ s t : State, exec .analyze s = .next t →
    t = { s with
      flags := t.flags, ft := t.ft, total := t.total, inBytes := t.inBytes, ioAnswers := t.ioAnswers
      status := t.status, errOffset := t.errOffset, draws := t.draws, phase := t.phase } ∧
    (t.flags = 0b00001#5 ∧ t.status = s.status ∧ t.errOffset = s.errOffset ∨ t.flags = 0#5 ∧ t.isError = true)

/-- 10_state.md R19 as an invariant of every step: while FAV = 1, 2 (sum of FT) - (TOTAL mod 2) = TOTAL. -/
def Obligations.StepKeepsTheCountInvariant : Prop :=
  ∀ s t : State, s.inv = true → countsMatch s = true → step s = .next t → countsMatch t = true

/-! ### TreeBuilder -/

/-- 41_tree_builder.md R92: the key order is lexicographic in (weight, index) and a strict total order on indices. -/
def Obligations.QueueKeysAreTotallyOrdered : Prop :=
  ∀ (s : State) (i j k : NodeIdx),
    (keyBefore s i j = true ↔
      (weightOf s i).toNat < (weightOf s j).toNat ∨ weightOf s i = weightOf s j ∧ i.toNat < j.toNat) ∧
    keyBefore s i i = false ∧ (i ≠ j → keyBefore s i j = true ∨ keyBefore s j i = true) ∧
    (keyBefore s i j = true → keyBefore s j k = true → keyBefore s i k = true)

/-- 41_tree_builder.md R93: PQ_INSERT(i) adds i to the set and changes nothing else. -/
def Obligations.InsertAddsTheIndex : Prop :=
  ∀ (s : State) (i : NodeIdx), i ∉ s.pq → s.pq.Nodup →
    (pqInsert i s).pq.Nodup ∧ (∀ j, j ∈ (pqInsert i s).pq ↔ j = i ∨ j ∈ s.pq) ∧
    pqInsert i s = { s with pq := (pqInsert i s).pq } ∧
    (s.pq = [] → ∃ t, pqExtractMin (pqInsert i s) = .ok i t)

/-- 41_tree_builder.md R94: PQ_EXTRACT_MIN on a non-empty queue answers the index with the least key and removes it. -/
def Obligations.ExtractMinTakesTheLeastKey : Prop :=
  ∀ s : State, s.pq ≠ [] → s.pq.Nodup →
    ∃ m t, pqExtractMin s = .ok m t ∧ m ∈ s.pq ∧ (∀ j ∈ s.pq, j ≠ m → keyBefore s m j = true) ∧
      (∀ j, j ∈ t.pq ↔ j ∈ s.pq ∧ j ≠ m) ∧ t.pq.Nodup ∧ t = { s with pq := t.pq }

/-- 41_tree_builder.md R95: MERGE_STEP makes the Internal node of the two least keys, left the least, its weight the sum of
both, at index NCOUNT; |PQ| goes down by one and every other node stays. -/
def Obligations.MergeStepJoinsTheTwoLeast : Prop :=
  ∀ s : State, 2 ≤ s.pq.length → s.pq.Nodup → s.nCount.toNat ≤ 131070 → (∀ j ∈ s.pq, j.toNat < s.nCount.toNat) →
    nodesLegal s = true →
    ∃ a b t, mergeStep s = .ok () t ∧ a ∈ s.pq ∧ b ∈ s.pq ∧ a ≠ b ∧
      (∀ j ∈ s.pq, j ≠ a → keyBefore s a j = true) ∧ (∀ j ∈ s.pq, j ≠ a → j ≠ b → keyBefore s b j = true) ∧
      readNode t (s.nCount.setWidth 17) = .internal (weightOf s a + weightOf s b) a b ∧
      (∀ j : NodeIdx, j ≠ s.nCount.setWidth 17 → readNode t j = readNode s j) ∧
      t.nCount.toNat = s.nCount.toNat + 1 ∧ t.pq.length + 1 = s.pq.length ∧
      (∀ j, j ∈ t.pq ↔ j = s.nCount.setWidth 17 ∨ j ∈ s.pq ∧ j ≠ a ∧ j ≠ b) ∧
      t = { s with pq := t.pq, node := t.node, nCount := t.nCount }

/-- 41_tree_builder.md R98 and R97: BUILD of an empty table gives the empty tree and raises nothing; BUILD of a table with
exactly one entry gives a single Leaf and no merge. Working state that the command does not use stays as it was: the
model's choice, log 8. -/
def Obligations.BuildOfAtMostOneEntryMergesNothing : Prop :=
  (∀ s : State, s.ft = [] →
    ∃ t, exec .build s = .next t ∧
      t = { s with
        flags := (s.flags &&& 0b00001#5) ||| 0b00010#5, leafCnt := 0#32, nCount := 0#18, root := none, node := []
        pq := t.pq, draws := t.draws }) ∧
  (∀ (s : State) (sym : Symbol) (count : Word32), s.ft = [(sym, count)] → count ≠ 0#32 →
    ∃ t, exec .build s = .next t ∧
      t = { s with
        flags := (s.flags &&& 0b00001#5) ||| 0b00010#5, leafCnt := 1#32, nCount := 1#18, root := some 0#17
        node := [(0#17, .leaf sym (count.setWidth 48))], pq := t.pq, draws := t.draws })

/-- 41_tree_builder.md section 4 (BUILD, Result): leaves at indices 0 to LEAFCNT - 1 in ascending symbol order with the
counts as weights, NCOUNT = 2 LEAFCNT - 1, ROOT = NCOUNT - 1; TRV set, DEV, DDV, HRV cleared, FAV as it was; only the
tree, FLAGS and working state are written. Working state that the command does not use stays as it was: the model's
choice, log 8. -/
def Obligations.BuildLaysOutLeavesThenMerges : Prop :=
  ∀ s : State, Memory.wf s = true → s.ft ≠ [] →
    ∃ t, exec .build s = .next t ∧
      t.leafCnt.toNat = s.ft.length ∧ t.nCount.toNat + 1 = 2 * s.ft.length ∧
      (∃ r, t.root = some r ∧ r.toNat + 1 = t.nCount.toNat) ∧
      (∀ (j : Nat) (e : Symbol × Word32), s.ft[j]? = some e →
        readNode t (BitVec.ofNat 17 j) = .leaf e.1 (e.2.setWidth 48)) ∧
      t.flags = (s.flags &&& 0b00001#5) ||| 0b00010#5 ∧
      t = { s with
        flags := t.flags, leafCnt := t.leafCnt, nCount := t.nCount, root := t.root, node := t.node, pq := t.pq
        draws := t.draws }

/-- 41_tree_builder.md sections 4 and 5 with 10_state.md section 4: BUILD makes one strict tree whose leaves are the
entries of FT, each once; the root's weight is the sum of all counts; every Internal node's weight is the sum of its
children's and its left child has the smaller key. -/
def Obligations.BuildMakesOneTreeOfAllEntries : Prop :=
  ∀ s : State, Memory.wf s = true → s.ft ≠ [] →
    ∃ (t : State) (r : NodeIdx) (T : CodeTree), exec .build s = .next t ∧ t.root = some r ∧ T.standsAt t r = true ∧
      T.syms.Perm (s.ft.map fun e => e.1) ∧ T.leaves = s.ft.length ∧
      (weightOf t r).toNat = (s.ft.map fun e => e.2.toNat).sum ∧
      ∀ (i : NodeIdx) (w : Weight) (a b : NodeIdx), i.toNat < t.nCount.toNat → readNode t i = .internal w a b →
        w.toNat = (weightOf t a).toNat + (weightOf t b).toNat ∧ keyBefore t a b = true

/-- 41_tree_builder.md R100: equal FT contents give equal NODE, NCOUNT, LEAFCNT and ROOT, bit for bit, whatever else the
states hold. -/
def Obligations.BuildDependsOnTheTableAlone : Prop :=
  ∀ s₁ s₂ t₁ : State, s₁.ft = s₂.ft → exec .build s₁ = .next t₁ →
    ∃ t₂, exec .build s₂ = .next t₂ ∧
      t₁.node = t₂.node ∧ t₁.nCount = t₂.nCount ∧ t₁.leafCnt = t₂.leafCnt ∧ t₁.root = t₂.root

/-! ### DictionaryCodec -/

/-- 42_dictionary_codec.md sections 2 and 5 (DICT_ENC, repeated symbols): CT holds, for each symbol of the tree, the code
word of its rightmost leaf, and is INVALID elsewhere; the empty tree gives an empty table; only CT and DEV are
written. Working state that the command does not use stays as it was: the model's choice, log 8. -/
def Obligations.DictEncFillsTheBitPathTable : Prop :=
  ∀ s : State, s.trv = true →
    (∀ T : CodeTree, s.hasTree T = true → T.leaves ≤ 65536 →
      ∃ t, exec .dictEnc s = .next t ∧
        (∀ sym, readCt t sym = (T.codes.reverse.find? fun e => e.1 == sym).map fun e => e.2) ∧
        t = { s with ct := t.ct, flags := s.flags ||| 0b00100#5 }) ∧
    (s.root = none → exec .dictEnc s = .next { s with ct := [], flags := s.flags ||| 0b00100#5 })

/-- 42_dictionary_codec.md section 3 (DICT_DEC): DT is exactly the code words of the tree with their symbols, MAXDEPTH the
length of the longest; the empty tree gives an empty table and MAXDEPTH 0; only DT, MAXDEPTH and DDV are written.
Working state that the command does not use stays as it was: the model's choice, log 8. -/
def Obligations.DictDecFillsTheInverseTable : Prop :=
  ∀ s : State, s.trv = true →
    (∀ T : CodeTree, s.hasTree T = true → T.leaves ≤ 65536 →
      ∃ t, exec .dictDec s = .next t ∧
        (∀ p sym, readDt t p = some sym ↔ (sym, p) ∈ T.codes) ∧ t.dt.length = T.leaves ∧
        (∀ e ∈ T.codes, e.2.length ≤ t.maxDepth.toNat) ∧ (∃ e ∈ T.codes, e.2.length = t.maxDepth.toNat) ∧
        t = { s with dt := t.dt, maxDepth := t.maxDepth, flags := s.flags ||| 0b01000#5 }) ∧
    (s.root = none → exec .dictDec s = .next { s with dt := [], maxDepth := 0#17, flags := s.flags ||| 0b01000#5 })

/-- 42_dictionary_codec.md sections 2 and 3 (Writes, Flags, Faults): the frames of DICT_ENC and DICT_DEC, faulting or not.
Working state that the command does not use stays as it was: the model's choice, log 8. -/
def Obligations.DictionaryFrame : Prop :=
  ∀ s t : State,
    (exec .dictEnc s = .next t →
      t = { s with
        ct := t.ct, flags := t.flags, status := t.status, errOffset := t.errOffset, draws := t.draws
        phase := t.phase } ∧
      (s.trv = true → t.status = s.status ∧ t.errOffset = s.errOffset ∧ t.flags = s.flags ||| 0b00100#5) ∧
      (s.trv = false → t.ct = s.ct ∧ t.flags = s.flags)) ∧
    (exec .dictDec s = .next t →
      t = { s with
        dt := t.dt, maxDepth := t.maxDepth, flags := t.flags, status := t.status, errOffset := t.errOffset
        draws := t.draws, phase := t.phase } ∧
      (s.trv = true → t.status = s.status ∧ t.errOffset = s.errOffset ∧ t.flags = s.flags ||| 0b01000#5) ∧
      (s.trv = false → t.dt = s.dt ∧ t.maxDepth = s.maxDepth ∧ t.flags = s.flags))

/-- 42_dictionary_codec.md section 5 (prefix property): no code word of a state's tree is a prefix of the code word of
another leaf, and none is empty. -/
def Obligations.CodeWordsAreAPrefixCode : Prop :=
  ∀ (s : State) (ps : List (Symbol × Bits)), treePaths s = some ps →
    ps.Pairwise (fun a b => ¬ a.2 <+: b.2 ∧ ¬ b.2 <+: a.2) ∧ ∀ e ∈ ps, e.2 ≠ []

/-- 42_dictionary_codec.md section 5: after DICT_ENC and DICT_DEC on the same tree with distinct leaf symbols,
DT[CT[s]] = s for every valid s and CT[DT[p]] = p for every key p. -/
def Obligations.DictionariesAreInverse : Prop :=
  ∀ (s : State) (T : CodeTree), s.trv = true → s.hasTree T = true → T.leaves ≤ 65536 → T.syms.Nodup →
    ∃ t u, exec .dictEnc s = .next t ∧ exec .dictDec t = .next u ∧
      (∀ sym p, readCt u sym = some p → readDt u p = some sym) ∧
      (∀ p sym, readDt u p = some sym → readCt u sym = some p)

/-- 10_state.md R15 (DEV, DDV) as an invariant of every step: a dictionary flag that is 1 means the table is the dictionary
of the current tree. -/
def Obligations.StepKeepsDictionariesMatchingTheTree : Prop :=
  ∀ s t : State, s.inv = true → dictionariesMatch s = true → step s = .next t → dictionariesMatch t = true

/-! ### TreeSerializer -/

/-- 43_tree_serializer.md R115: T_LEAF with REML > 0 and NCOUNT <= 131070 makes the leaf of weight 0 at index NCOUNT,
pushes it, NCOUNT + 1, REML - 1, and leaves every other node and everything else unchanged; with REML = 0 it raises
CorruptStreamError with the node store, NCOUNT and ROOT unchanged. -/
def Obligations.LeafTokenPushesALeaf : Prop :=
  ∀ (s : State) (sym : Symbol),
    (s.remL ≠ 0#17 → s.nCount.toNat ≤ 131070 →
      ∃ t, exec (.tLeaf sym) s = .next t ∧
        readNode t (s.nCount.setWidth 17) = .leaf sym 0#48 ∧
        (∀ j : NodeIdx, j ≠ s.nCount.setWidth 17 → readNode t j = readNode s j) ∧
        t = { s with
          node := t.node, stack := s.nCount.setWidth 17 :: s.stack, nCount := s.nCount + 1#18
          remL := s.remL - 1#17 }) ∧
    (s.remL = 0#17 →
      ∃ t, exec (.tLeaf sym) s = .next t ∧ t.status = 0xA5#8 ∧
        t = { s with
          status := t.status, errOffset := t.errOffset, draws := t.draws, phase := .idle
          stack := t.stack, remL := t.remL, remI := t.remI })

/-- 43_tree_serializer.md R116: T_MERGE with REMI > 0 and SP >= 2 pops B, then A, makes Internal(0, A, B) at index NCOUNT,
pushes it, NCOUNT + 1, REMI - 1; with REMI = 0 or SP < 2 it raises CorruptStreamError with the node store, NCOUNT and ROOT
unchanged. -/
def Obligations.MergeTokenJoinsTheTwoTopNodes : Prop :=
  ∀ s : State,
    (∀ (a b : NodeIdx) (below : List NodeIdx), s.remI ≠ 0#17 → s.stack = b :: a :: below → s.nCount.toNat ≤ 131070 →
      ∃ t, exec .tMerge s = .next t ∧
        readNode t (s.nCount.setWidth 17) = .internal 0#48 a b ∧
        (∀ j : NodeIdx, j ≠ s.nCount.setWidth 17 → readNode t j = readNode s j) ∧
        t = { s with
          node := t.node, stack := s.nCount.setWidth 17 :: below, nCount := s.nCount + 1#18
          remI := s.remI - 1#17 }) ∧
    ((s.remI = 0#17 ∨ s.stack.length < 2) →
      ∃ t, exec .tMerge s = .next t ∧ t.status = 0xA5#8 ∧
        t = { s with
          status := t.status, errOffset := t.errOffset, draws := t.draws, phase := .idle
          stack := t.stack, remL := t.remL, remI := t.remI })

/-- 43_tree_serializer.md sections 2 (TREE_WR): the tokens of the tree in postorder are appended to OUT_BITS, nothing for
the empty tree; no register and no flag changes. Working state that the command does not use stays as it was: the
model's choice, log 8. -/
def Obligations.TreeWrWritesThePostorder : Prop :=
  ∀ s : State, s.trv = true → s.quiet →
    (s.root = none → exec .treeWr s = .next s) ∧
    (∀ T : CodeTree, s.hasTree T = true → T.leaves ≤ 65536 →
      ∃ t, exec .treeWr s = .next t ∧
        t = { s with outBits := s.outBits ++ T.tokenBits, ioAnswers := t.ioAnswers })

/-- 43_tree_serializer.md sections 3 and 4 (TREE_RD, round trip): on the bits of any tree of LEAFCNT leaves, TREE_RD
builds that tree, consumes exactly 18 LEAFCNT - 1 bits, and leaves NCOUNT = 2 LEAFCNT - 1, ROOT = NCOUNT - 1, TRV set,
DEV and DDV cleared, every weight 0. Working state that the command does not use stays as it was: the model's choice,
log 8. -/
def Obligations.TreeRdRebuildsTheSerializedTree : Prop :=
  ∀ (s : State) (T : CodeTree) (rest : Bits), s.hrv = true → s.quiet → s.leafCnt.toNat = T.leaves → T.leaves ≤ 65536 →
    s.bitsAhead = T.tokenBits ++ rest →
    ∃ t r, exec .treeRd s = .next t ∧ t.root = some r ∧ T.standsAt t r = true ∧
      t.nCount.toNat + 1 = 2 * T.leaves ∧ r.toNat + 1 = t.nCount.toNat ∧
      (∀ i : NodeIdx, i.toNat < t.nCount.toNat → weightOf t i = 0#48) ∧
      t.flags = (s.flags &&& 0b10001#5) ||| 0b00010#5 ∧
      t = { s with
        flags := t.flags, node := t.node, nCount := t.nCount, root := t.root, ioAnswers := t.ioAnswers
        inBits := { s.inBits with pos := s.inBits.pos + (18 * T.leaves - 1) }
        stack := t.stack, remL := t.remL, remI := t.remI, draws := t.draws, phase := t.phase }

/-- 43_tree_serializer.md R125: with LEAFCNT = 0 TREE_RD reads no bit and gives the empty tree. -/
def Obligations.TreeRdOfNoLeafReadsNothing : Prop :=
  ∀ s : State, s.hrv = true → s.leafCnt = 0#32 →
    ∃ t, exec .treeRd s = .next t ∧ t.root = none ∧ t.nCount = 0#18 ∧ t.trv = true ∧ t.inBits = s.inBits ∧
      t.ioAnswers = s.ioAnswers ∧ t.status = s.status

/-- 43_tree_serializer.md section 3 (causes a and b): when the bits end inside the tree, TREE_RD raises CorruptStreamError
and TRV stays 0. -/
def Obligations.TreeRdOfATruncatedTreeIsCorrupt : Prop :=
  ∀ (s : State) (T : CodeTree), s.hrv = true → s.quiet → s.leafCnt.toNat = T.leaves → T.leaves ≤ 65536 →
    s.bitsAhead <+: T.tokenBits → s.bitsAhead ≠ T.tokenBits →
    ∃ t, exec .treeRd s = .next t ∧ t.status = 0xA5#8 ∧ t.trv = false

/-! ### Encoder -/

/-- 44_encoder.md section 1 (HDR_WR): TOTAL then LEAFCNT, 32 bits each, most significant bit first. Working state that the
command does not use stays as it was: the model's choice, log 8. -/
def Obligations.HdrWrWritesTheHeader : Prop :=
  ∀ s : State, s.fav = true → s.trv = true → s.quiet →
    exec .hdrWr s = .next
      { s with
        outBits := s.outBits ++ fieldBits s.total ++ fieldBits s.leafCnt, ioAnswers := s.ioAnswers.drop 2 }

/-- 44_encoder.md section 2 (the result of ENC_BODY stated as a function): the code words of symbols(X) are appended in
order; no register and no flag changes. Working state that the command does not use stays as it was: the model's
choice, log 8. -/
def Obligations.EncBodyEmitsTheCodeWords : Prop :=
  ∀ (s : State) (X : List Byte), s.fav = true → s.dev = true → s.quiet → s.nextPass = X →
    (∀ sym ∈ symbols X, readCt s sym ≠ none) →
    ∃ t, exec .encBody s = .next t ∧
      t = { s with
        outBits := s.outBits ++ (symbols X).flatMap s.codeOf, ioAnswers := t.ioAnswers
        inBytes := { (rewind s).inBytes with pos := X.length } }

/-- 44_encoder.md section 2 and 70_reset_and_hazards.md section 3 (two-pass stability): the first symbol of the pass with no
code word raises LookupMiss, after the code words of the symbols before it. -/
def Obligations.EncBodyOfAnUnknownSymbolMisses : Prop :=
  ∀ (s : State) (before after : List Symbol) (sym : Symbol), s.fav = true → s.dev = true → s.quiet →
    symbols s.nextPass = before ++ sym :: after → (∀ x ∈ before, readCt s x ≠ none) → readCt s sym = none →
    ∃ t, exec .encBody s = .next t ∧ t.status = 0x7B#8 ∧ t.outBits = s.outBits ++ before.flatMap s.codeOf

/-- 44_encoder.md sections 1 and 2 and 43_tree_serializer.md section 2 ('Changes no register and no flag'): the frame of
HDR_WR, TREE_WR and ENC_BODY, faulting or not: OUT_BITS and the stream calls move (IN_BYTES for ENC_BODY alone),
STATUS and ERR_OFFSET only by a fault. Working state that the command does not use stays as it was: the model's
choice, log 8. -/
def Obligations.OutputCommandsFrame : Prop :=
  ∀ (i : Instr) (s t : State), i = .hdrWr ∨ i = .treeWr ∨ i = .encBody → exec i s = .next t →
    t = { s with
      outBits := t.outBits, inBytes := t.inBytes, ioAnswers := t.ioAnswers, status := t.status
      errOffset := t.errOffset, draws := t.draws, phase := t.phase } ∧
    (i ≠ .encBody → t.inBytes = s.inBytes) ∧
    (t.isError = false → t.status = s.status ∧ t.errOffset = s.errOffset ∧ t.draws = s.draws ∧ t.phase = s.phase)

/-- 44_encoder.md sections 3 (COMPRESS) with 30_encoding.md R69: on an input that both passes deliver, COMPRESS ends READY
with FAV, TRV, DEV set, and OUT_BITS holds the header, the serialized tree, the code words of the input's symbols and the
padding. -/
def Obligations.CompressWritesTheWholeFile : Prop :=
  ∀ (s : State) (X : List Byte), s.quiet → s.delivers X → X.length ≤ 2 ^ 32 - 1 →
    ∃ t tree, exec .compress s = .next t ∧ t.status = 0x00#8 ∧ t.flags = 0b00111#5 ∧
      t.total.toNat = X.length ∧ t.leafCnt.toNat = (symbols X).dedup.length ∧
      (X = [] → tree = [] ∧ t.root = none) ∧
      (X ≠ [] → ∃ T : CodeTree, t.hasTree T = true ∧ tree = T.tokenBits) ∧
      (∀ sym ∈ symbols X, readCt t sym ≠ none) ∧
      t.outBits =
        (let file := s.outBits ++ fieldBits t.total ++ fieldBits t.leafCnt ++ tree ++ (symbols X).flatMap t.codeOf
         file ++ List.replicate ((8 - file.length % 8) % 8) false) ∧
      t.inBits = s.inBits ∧ t.outBytes = s.outBytes ∧ t.host = s.host ∧ t.dt = [] ∧ t.maxDepth = 0#17

/-- 44_encoder.md section 3 (output size) with 41_tree_builder.md section 5: the file is a function of the input bytes
alone, whatever the CORE held before. -/
def Obligations.CompressDependsOnTheInputAlone : Prop :=
  ∀ (s₁ s₂ : State) (X : List Byte), s₁.quiet → s₂.quiet → s₁.delivers X → s₂.delivers X → X.length ≤ 2 ^ 32 - 1 →
    s₁.outBits = [] → s₂.outBits = [] →
    ∃ t₁ t₂, exec .compress s₁ = .next t₁ ∧ exec .compress s₂ = .next t₂ ∧ t₁.outBits = t₂.outBits ∧
      t₁.node = t₂.node ∧ t₁.ct = t₂.ct ∧ t₁.ft = t₂.ft

/-! ### Decoder -/

/-- 45_decoder.md section 1 (HDR_RD): TOTAL and LEAFCNT are read and accepted, or CorruptStreamError is raised for LEAFCNT
> 65536 or for LEAFCNT = 0 with TOTAL > 0; both fields are kept either way; fewer than 64 bits left raise
CorruptStreamError too, and HRV stays 0. Working state that the command does not use stays as it was: the model's
choice, log 8. -/
def Obligations.HdrRdReadsAndChecksTheHeader : Prop :=
  ∀ s : State, s.quiet →
    (∀ (n l : Word32) (rest : Bits), s.bitsAhead = fieldBits n ++ fieldBits l ++ rest →
      ∃ t, exec .hdrRd s = .next t ∧
        (l.toNat ≤ 65536 ∧ (l ≠ 0#32 ∨ n = 0#32) → t.flags = 0b10000#5 ∧ t.status = s.status ∧
          t.errOffset = s.errOffset ∧ t.draws = s.draws ∧ t.phase = s.phase) ∧
        (65536 < l.toNat ∨ l = 0#32 ∧ n ≠ 0#32 → t.flags = 0#5 ∧ t.status = 0x95#8) ∧
        t = { s with
          flags := t.flags, total := n, leafCnt := l, ioAnswers := s.ioAnswers.drop 2
          inBits := { s.inBits with pos := s.inBits.pos + 64 }
          status := t.status, errOffset := t.errOffset, draws := t.draws, phase := t.phase }) ∧
    (s.bitsAhead.length < 64 → ∃ t, exec .hdrRd s = .next t ∧ t.status = 0x95#8 ∧ t.flags = 0#5)

/-- 45_decoder.md section 2 (DEC_BODY): on a body of code words that DT knows, each matched where it ends and not before,
DEC_BODY emits the bytes of their symbols until TOTAL bytes are out, dropping the low byte of the last one when TOTAL
is odd; it reads no bit after the last code word and changes no flag and no host-visible register. Working state that
the command does not use stays as it was: the model's choice, log 8. -/
def Obligations.DecBodyEmitsTotalBytes : Prop :=
  ∀ (s : State) (picks : List (Symbol × Bits)) (rest : Bits), s.hrv = true → s.ddv = true → s.quiet →
    s.matchesEach picks → picks.length = (s.total.toNat + 1) / 2 → s.bitsAhead = pickBits picks ++ rest →
    ∃ t, exec .decBody s = .next t ∧
      t = { s with
        outBytes := s.outBytes ++ (pickBytes picks).take s.total.toNat
        inBits := { s.inBits with pos := s.inBits.pos + (pickBits picks).length }
        ioAnswers := t.ioAnswers, rem := t.rem, pathBuf := t.pathBuf, draws := t.draws }

/-- 45_decoder.md section 4 (causes a and b): after whole code words, the end of the bits with bytes still to emit raises
CorruptStreamError; and so do MAXDEPTH + 1 bits of which no non-empty prefix is a key, not earlier: exactly those bits are
consumed. The bytes of the code words before stay. -/
def Obligations.DecBodyOfACorruptBodyFaults : Prop :=
  ∀ (s : State) (picks : List (Symbol × Bits)), s.hrv = true → s.ddv = true → s.quiet →
    s.matchesEach picks → 2 * picks.length < s.total.toNat →
    (s.bitsAhead = pickBits picks →
      ∃ t, exec .decBody s = .next t ∧ t.status = 0xC5#8 ∧ t.outBytes = s.outBytes ++ pickBytes picks) ∧
    (∀ body rest : Bits, body.length = s.maxDepth.toNat + 1 → (∀ q ∈ body.inits, q ≠ [] → readDt s q = none) →
      s.bitsAhead = pickBits picks ++ body ++ rest →
      ∃ t, exec .decBody s = .next t ∧ t.status = 0xC5#8 ∧ t.outBytes = s.outBytes ++ pickBytes picks ∧
        t.inBits.pos = s.inBits.pos + (pickBits picks).length + s.maxDepth.toNat + 1)

/-- 45_decoder.md sections 1 and 2 and 43_tree_serializer.md section 3 (Writes, Flags, Faults): the frames of HDR_RD,
TREE_RD and DEC_BODY, faulting or not; of IN_BITS only the position moves. Working state that the command does not use
stays as it was: the model's choice, log 8. -/
def Obligations.InputCommandsFrame : Prop :=
  ∀ s t : State,
    (exec .hdrRd s = .next t →
      t = { s with
        flags := t.flags, total := t.total, leafCnt := t.leafCnt, inBits := t.inBits, ioAnswers := t.ioAnswers
        status := t.status, errOffset := t.errOffset, draws := t.draws, phase := t.phase } ∧
      t.inBits.bits = s.inBits.bits ∧ (t.flags = 0#5 ∨ t.flags = 0b10000#5)) ∧
    (exec .treeRd s = .next t →
      t = { s with
        node := t.node, nCount := t.nCount, root := t.root, flags := t.flags, inBits := t.inBits
        ioAnswers := t.ioAnswers, stack := t.stack, remL := t.remL, remI := t.remI
        status := t.status, errOffset := t.errOffset, draws := t.draws, phase := t.phase } ∧
      t.inBits.bits = s.inBits.bits ∧ t.fav = s.fav ∧ t.hrv = s.hrv ∧
      (t.isError = false → t.status = s.status ∧ t.errOffset = s.errOffset)) ∧
    (exec .decBody s = .next t →
      t = { s with
        outBytes := t.outBytes, inBits := t.inBits, ioAnswers := t.ioAnswers, rem := t.rem, pathBuf := t.pathBuf
        status := t.status, errOffset := t.errOffset, draws := t.draws, phase := t.phase } ∧
      t.inBits.bits = s.inBits.bits ∧
      (t.isError = false → t.status = s.status ∧ t.errOffset = s.errOffset))

/-- 45_decoder.md section 3 (DECOMPRESS) with 30_encoding.md section 3: on a file of a header, a tree of at most 65536
leaves and ceil(TOTAL / 2) of its code words, whatever stands after them, DECOMPRESS emits TOTAL bytes and ends READY with
HRV, TRV, DDV set, FT and CT empty; the empty file gives no byte. -/
def Obligations.DecompressReadsAValidFile : Prop :=
  ∀ (s : State) (n : Word32) (rest : Bits), s.quiet →
    (∀ (T : CodeTree) (picks : List (Symbol × Bits)), T.leaves ≤ 65536 → (∀ e ∈ picks, e ∈ T.codes) →
      picks.length = (n.toNat + 1) / 2 →
      s.bitsAhead =
        fieldBits n ++ fieldBits (BitVec.ofNat 32 T.leaves) ++ T.tokenBits ++ pickBits picks ++ rest →
      ∃ t, exec .decompress s = .next t ∧ t.status = 0x00#8 ∧ t.flags = 0b11010#5 ∧ t.total = n ∧
        t.leafCnt.toNat = T.leaves ∧ t.hasTree T = true ∧ t.ft = [] ∧ t.ct = [] ∧
        t.inBits.pos = s.inBits.pos + 64 + T.tokenBits.length + (pickBits picks).length ∧
        t.outBytes = s.outBytes ++ (pickBytes picks).take n.toNat ∧
        t.outBits = s.outBits ∧ t.inBytes = s.inBytes ∧ t.host = s.host) ∧
    (s.bitsAhead = fieldBits 0#32 ++ fieldBits 0#32 ++ rest →
      ∃ t, exec .decompress s = .next t ∧ t.status = 0x00#8 ∧ t.flags = 0b11010#5 ∧ t.root = none ∧
        t.outBytes = s.outBytes ∧ t.inBits.pos = s.inBits.pos + 64)

/-- 45_decoder.md R145: DECOMPRESS applied to what COMPRESS wrote for X writes exactly X, for every byte list X of at most
2^32 - 1 bytes and fault-free streams. -/
def Obligations.DecompressOfCompressIsTheInput : Prop :=
  ∀ (s t u : State) (X : List Byte), s.quiet → s.delivers X → X.length ≤ 2 ^ 32 - 1 → s.outBits = [] →
    exec .compress s = .next t →
    u.quiet → u.inBits = { bits := t.outBits, pos := 0 } → u.outBytes = [] →
    ∃ v, exec .decompress u = .next v ∧ v.outBytes = X ∧ v.status = 0x00#8

/-- 45_decoder.md section 4 (truncation is detected): removing the last byte of a file that COMPRESS wrote makes DECOMPRESS
raise CorruptStreamError. -/
def Obligations.TruncatedFileIsDetected : Prop :=
  ∀ (s t u : State) (X : List Byte), s.quiet → s.delivers X → X.length ≤ 2 ^ 32 - 1 → s.outBits = [] →
    exec .compress s = .next t →
    u.quiet → u.inBits = { bits := t.outBits.take (t.outBits.length - 8), pos := 0 } →
    ∃ v, exec .decompress u = .next v ∧ v.isError = true ∧ v.err = 2#3

/-! ### The whole machine -/

/-- 46_control.md section 4: HDR_RD, TREE_RD, DICT_DEC and DEC_BODY issued one after the other from a cleared state leave
what DECOMPRESS leaves, faults included. -/
def Obligations.UnitCommandsEqualDecompress : Prop :=
  ∀ s : State, s.phase = .idle →
    Sys2Proof.core.run 4
      { clearCore s with
        host := [.command 0x9000000000000000#64, .command 0xA000000000000000#64, .command 0xB000000000000000#64,
          .command 0xC000000000000000#64] } =
    exec .decompress { s with host := [] }

/-- 46_control.md section 4: ANALYZE, BUILD, DICT_ENC, HDR_WR, TREE_WR, ENC_BODY and the host's close, from a cleared state,
leave what a COMPRESS that ends READY leaves (but for the collaborator's answer to the CORE's own `Close()`). -/
def Obligations.UnitCommandsEqualCompress : Prop :=
  ∀ s t : State, s.phase = .idle → exec .compress { s with host := [] } = .next t → t.status = 0x00#8 →
    ∃ answers,
      Sys2Proof.core.run 7
        { clearCore s with
          host := [.command 0x2000000000000000#64, .command 0x3000000000000000#64, .command 0x4000000000000000#64,
            .command 0x5000000000000000#64, .command 0x6000000000000000#64, .command 0x7000000000000000#64,
            .closeOutBits] } =
      .next { t with ioAnswers := answers }

/-- 44_encoder.md section 3 and 45_decoder.md section 3 (stages, Writes): the frames of the two macro commands, faulting
or not: COMPRESS leaves IN_BITS, OUT_BYTES and the decode dictionary's cleared state, DECOMPRESS leaves IN_BYTES and
OUT_BITS and the cleared FT and CT. Working state that the command does not use stays as it was: the model's choice,
log 8. -/
def Obligations.MacroFrame : Prop :=
  ∀ s t : State,
    (exec .compress s = .next t →
      t.inBits = s.inBits ∧ t.outBytes = s.outBytes ∧ t.host = s.host ∧ t.dt = [] ∧ t.maxDepth = 0#17 ∧
      t.stack = s.stack ∧ t.remL = s.remL ∧ t.remI = s.remI ∧ t.rem = s.rem ∧ t.pathBuf = s.pathBuf ∧
      t.ddv = false ∧ t.hrv = false) ∧
    (exec .decompress s = .next t →
      t.inBytes = s.inBytes ∧ t.outBits = s.outBits ∧ t.host = s.host ∧ t.ft = [] ∧ t.ct = [] ∧ t.pq = s.pq ∧
      t.inBits.bits = s.inBits.bits ∧ t.fav = false ∧ t.dev = false)

/-- 20_memory.md R41, 44_encoder.md R137: whatever an instruction does, faulting or not, OUT_BITS and OUT_BYTES only grow at
their ends. -/
def Obligations.OutputsOnlyGrow : Prop :=
  ∀ (i : Instr) (s t : State), exec i s = .next t → s.outBits <+: t.outBits ∧ s.outBytes <+: t.outBytes

/-- 10_state.md R28: the state after reset meets the invariant, and no dictionary or count claim is open. -/
def Obligations.ResetMeetsTheInvariant : Prop :=
  State.reset.inv = true ∧ dictionariesMatch State.reset = true ∧ countsMatch State.reset = true

/-- 10_state.md R13, R16, R20, R21, 43_tree_serializer.md R124: from every state that meets the invariant, reached or not, a
step gives a state that meets it. -/
def Obligations.StepKeepsTheInvariant : Prop :=
  ∀ s t : State, s.inv = true → step s = .next t → t.inv = true

/-- 70_reset_and_hazards.md section 4 (termination of every command): from every state that meets the invariant a step
answers a next state; none of the model's own stops is reached. -/
def Obligations.StepNeverStops : Prop :=
  ∀ s : State, s.inv = true → ∃ t, step s = .next t
end

