-- ==== Sys2Proof/Laws/Encoding.lean ====
section
/-! SUPPORT. Fields as bit sequences: their length, their value, and back. -/

namespace Sys2Proof

@[simp] theorem length_fieldBits {n : Nat} (v : BitVec n) : (fieldBits v).length = n := by simp [fieldBits]

theorem bitsValue_snoc (bs : Bits) (b : Bool) : bitsValue (bs ++ [b]) = 2 * bitsValue bs + b.toNat := by
  simp [bitsValue, List.foldl_append]

/-- The first k bits of a field are worth its top k bits. -/
theorem bitsValue_field_prefix (n m k : Nat) (h : k ≤ n) :
    bitsValue ((List.range k).map fun i => Nat.testBit m (n - 1 - i)) = m / 2 ^ (n - k) % 2 ^ k := by
  induction k with
  | zero => simp [bitsValue, Nat.mod_one]
  | succ k ih =>
    rw [List.range_succ, List.map_append, List.map_singleton, bitsValue_snoc, ih (by omega)]
    have e : n - 1 - k = n - (k + 1) := by omega
    have p : n - k = n - (k + 1) + 1 := by omega
    rw [e, p, Nat.pow_succ, ← Nat.div_div_eq_div_mul, Nat.testBit_eq_decide_div_mod_eq]
    generalize m / 2 ^ (n - (k + 1)) = x
    rw [Nat.pow_succ, Nat.mul_comm (2 ^ k) 2, Nat.mod_mul]
    rcases Nat.mod_two_eq_zero_or_one x with h | h
    · simp [h]
    · simp [h]; omega

/-- Reading back the bits of a field gives its value (00_scope.md R7, 20_memory.md R45). -/
@[simp] theorem bitsValue_fieldBits {n : Nat} (v : BitVec n) : bitsValue (fieldBits v) = v.toNat := by
  have h := bitsValue_field_prefix n v.toNat n le_rfl
  simp only [Nat.sub_self, Nat.pow_zero, Nat.div_one, Nat.mod_eq_of_lt v.isLt] at h
  exact h

theorem ofNat_bitsValue_fieldBits {n : Nat} (v : BitVec n) : BitVec.ofNat n (bitsValue (fieldBits v)) = v := by simp

/-- The code of an instruction, taken apart: commands are 64-bit words with their opcode on top. -/
theorem opField_commandWord (op : Opcode) : opField (commandWord op) = op := by
  revert op; decide

theorem operandField_commandWord (op : Opcode) : operandField (commandWord op) = 0#60 := by
  revert op; decide

/-- Every bit of FT_WRITE's word (30_encoding.md R61). -/
theorem getLsbD_ftWriteWord (sym : Symbol) (count : Word32) (i : Nat) :
    (ftWriteWord sym count).getLsbD i =
      if i < 12 then (0#12).getLsbD i
      else if i - 12 < 32 then count.getLsbD (i - 12)
      else if i - 12 - 32 < 16 then sym.getLsbD (i - 12 - 32)
      else (1#4).getLsbD (i - 12 - 32 - 16) := by
  unfold ftWriteWord
  erw [BitVec.getLsbD_append, BitVec.getLsbD_append, BitVec.getLsbD_append]

theorem opField_ftWriteWord (sym : Symbol) (count : Word32) : opField (ftWriteWord sym count) = 1#4 := by
  apply BitVec.eq_of_getLsbD_eq
  intro i hi
  interval_cases i <;> simp [opField, -BitVec.getLsbD_eq_getElem, getLsbD_ftWriteWord]

theorem reservedField_ftWriteWord (sym : Symbol) (count : Word32) : reservedField (ftWriteWord sym count) = 0#12 := by
  apply BitVec.eq_of_getLsbD_eq
  intro i hi
  interval_cases i <;> simp [reservedField, -BitVec.getLsbD_eq_getElem, getLsbD_ftWriteWord]

/-- FT_WRITE's word lies in its row of spec/opcode_table.json. -/
theorem masked_ftWriteWord (sym : Symbol) (count : Word32) :
    ftWriteWord sym count &&& 0xF000000000000FFF#64 = 0x1000000000000000#64 := by
  apply BitVec.eq_of_getLsbD_eq
  intro i hi
  rw [BitVec.getLsbD_and, getLsbD_ftWriteWord]
  interval_cases i <;> simp

end Sys2Proof
end

