-- ==== Sys2Proof/Laws/Flow.lean ====
section
/-! SUPPORT. What a sequence of command pieces can do, said once: each way a `bind`, an `atEnd` or a whole command ends. -/

namespace Sys2Proof.Machine

open Sys2Proof

variable {α β : Type}

@[simp] theorem bind_ok (a : α) (s : State) (f : α → State → Flow β) : (Flow.ok a s).bind f = f a s := rfl

@[simp] theorem bind_ended (s : State) (f : α → State → Flow β) : (Flow.ended s : Flow α).bind f = .ended s := rfl

@[simp] theorem bind_stop (e : Fault) (f : α → State → Flow β) : (Flow.stop e : Flow α).bind f = .stop e := rfl

@[simp] theorem atEnd_ok (a : α) (s : State) (g : State → State) : (Flow.ok a s).atEnd g = .ok a (g s) := rfl

@[simp] theorem atEnd_ended (s : State) (g : State → State) : (Flow.ended s : Flow α).atEnd g = .ended (g s) := rfl

@[simp] theorem atEnd_stop (e : Fault) (g : State → State) : (Flow.stop e : Flow α).atEnd g = .stop e := rfl

@[simp] theorem outcome_ok (u : Unit) (s : State) : (Flow.ok u s).outcome = .next s := rfl

@[simp] theorem outcome_ended (s : State) : (Flow.ended s).outcome = .next s := rfl

@[simp] theorem outcome_stop (e : Fault) : (Flow.stop e).outcome = .fault e := rfl

/-- A sequence completes exactly when both pieces do. -/
theorem bind_eq_ok {m : Flow α} {f : α → State → Flow β} {b : β} {t : State} :
    m.bind f = .ok b t ↔ ∃ a s, m = .ok a s ∧ f a s = .ok b t := by
  cases m <;> simp

/-- A sequence faults exactly when its first piece does, or completes and the second faults. -/
theorem bind_eq_ended {m : Flow α} {f : α → State → Flow β} {t : State} :
    m.bind f = .ended t ↔ m = .ended t ∨ ∃ a s, m = .ok a s ∧ f a s = .ended t := by
  cases m <;> simp

/-- A sequence stops exactly when one of its pieces does. -/
theorem bind_eq_stop {m : Flow α} {f : α → State → Flow β} {e : Fault} :
    m.bind f = .stop e ↔ m = .stop e ∨ ∃ a s, m = .ok a s ∧ f a s = .stop e := by
  cases m <;> simp

theorem bind_assoc {γ : Type} (m : Flow α) (f : α → State → Flow β) (g : β → State → Flow γ) :
    (m.bind f).bind g = m.bind fun a s => (f a s).bind g := by
  cases m <;> rfl

/-- A command answers a next state exactly when it completes or faults. -/
theorem outcome_eq_next {m : Flow Unit} {t : State} : m.outcome = .next t ↔ m = .ok () t ∨ m = .ended t := by
  cases m <;> simp [Flow.outcome]

/-- A command answers a fault of the model exactly when it stops. -/
theorem outcome_eq_fault {m : Flow Unit} {e : Fault} : m.outcome = .fault e ↔ m = .stop e := by
  cases m <;> simp [Flow.outcome]

/-- No command is refused. -/
theorem outcome_ne_refused (m : Flow Unit) (r : Refusal) : m.outcome ≠ .refused r := by
  cases m <;> simp [Flow.outcome]

theorem atEnd_eq_ok {m : Flow α} {g : State → State} {a : α} {t : State} :
    m.atEnd g = .ok a t ↔ ∃ s, m = .ok a s ∧ g s = t := by
  cases m <;> simp [Flow.atEnd]

theorem atEnd_eq_ended {m : Flow α} {g : State → State} {t : State} :
    m.atEnd g = .ended t ↔ ∃ s, m = .ended s ∧ g s = t := by
  cases m <;> simp [Flow.atEnd]

theorem atEnd_eq_stop {m : Flow α} {g : State → State} {e : Fault} : m.atEnd g = .stop e ↔ m = .stop e := by
  cases m <;> simp [Flow.atEnd]

/-- `require` goes on exactly when its condition holds; otherwise SequenceError, with no other effect. -/
theorem require_cases (c : Bool) (g : Opcode) (s : State) :
    (c = true ∧ require c g s = .ok () s) ∨ (c = false ∧ require c g s = .ended (raise .sequenceError g s)) := by
  cases c <;> simp [require]

end Sys2Proof.Machine
end

