-- ==== Sys2Proof/Laws/State.lean ====
section
/-! SUPPORT. One lemma per field per named update of the state, each true by unfolding the update alone, so that no later
proof unfolds a record update. -/

namespace Sys2Proof.Machine

open Sys2Proof

variable (s : State)

/-! ### clearFlags -/

@[simp] theorem clearFlags_status (m : BitVec 5) : (clearFlags m s).status = s.status := rfl
@[simp] theorem clearFlags_flags (m : BitVec 5) : (clearFlags m s).flags = s.flags &&& ~~~m := rfl
@[simp] theorem clearFlags_total (m : BitVec 5) : (clearFlags m s).total = s.total := rfl
@[simp] theorem clearFlags_leafCnt (m : BitVec 5) : (clearFlags m s).leafCnt = s.leafCnt := rfl
@[simp] theorem clearFlags_root (m : BitVec 5) : (clearFlags m s).root = s.root := rfl
@[simp] theorem clearFlags_nCount (m : BitVec 5) : (clearFlags m s).nCount = s.nCount := rfl
@[simp] theorem clearFlags_maxDepth (m : BitVec 5) : (clearFlags m s).maxDepth = s.maxDepth := rfl
@[simp] theorem clearFlags_errOffset (m : BitVec 5) : (clearFlags m s).errOffset = s.errOffset := rfl
@[simp] theorem clearFlags_ft (m : BitVec 5) : (clearFlags m s).ft = s.ft := rfl
@[simp] theorem clearFlags_node (m : BitVec 5) : (clearFlags m s).node = s.node := rfl
@[simp] theorem clearFlags_ct (m : BitVec 5) : (clearFlags m s).ct = s.ct := rfl
@[simp] theorem clearFlags_dt (m : BitVec 5) : (clearFlags m s).dt = s.dt := rfl
@[simp] theorem clearFlags_pq (m : BitVec 5) : (clearFlags m s).pq = s.pq := rfl
@[simp] theorem clearFlags_stack (m : BitVec 5) : (clearFlags m s).stack = s.stack := rfl
@[simp] theorem clearFlags_remL (m : BitVec 5) : (clearFlags m s).remL = s.remL := rfl
@[simp] theorem clearFlags_remI (m : BitVec 5) : (clearFlags m s).remI = s.remI := rfl
@[simp] theorem clearFlags_rem (m : BitVec 5) : (clearFlags m s).rem = s.rem := rfl
@[simp] theorem clearFlags_pathBuf (m : BitVec 5) : (clearFlags m s).pathBuf = s.pathBuf := rfl
@[simp] theorem clearFlags_inBytes (m : BitVec 5) : (clearFlags m s).inBytes = s.inBytes := rfl
@[simp] theorem clearFlags_outBits (m : BitVec 5) : (clearFlags m s).outBits = s.outBits := rfl
@[simp] theorem clearFlags_inBits (m : BitVec 5) : (clearFlags m s).inBits = s.inBits := rfl
@[simp] theorem clearFlags_outBytes (m : BitVec 5) : (clearFlags m s).outBytes = s.outBytes := rfl
@[simp] theorem clearFlags_ioAnswers (m : BitVec 5) : (clearFlags m s).ioAnswers = s.ioAnswers := rfl
@[simp] theorem clearFlags_host (m : BitVec 5) : (clearFlags m s).host = s.host := rfl
@[simp] theorem clearFlags_phase (m : BitVec 5) : (clearFlags m s).phase = s.phase := rfl
@[simp] theorem clearFlags_draws (m : BitVec 5) : (clearFlags m s).draws = s.draws := rfl

/-! ### setFlags -/

@[simp] theorem setFlags_status (m : BitVec 5) : (setFlags m s).status = s.status := rfl
@[simp] theorem setFlags_flags (m : BitVec 5) : (setFlags m s).flags = s.flags ||| m := rfl
@[simp] theorem setFlags_total (m : BitVec 5) : (setFlags m s).total = s.total := rfl
@[simp] theorem setFlags_leafCnt (m : BitVec 5) : (setFlags m s).leafCnt = s.leafCnt := rfl
@[simp] theorem setFlags_root (m : BitVec 5) : (setFlags m s).root = s.root := rfl
@[simp] theorem setFlags_nCount (m : BitVec 5) : (setFlags m s).nCount = s.nCount := rfl
@[simp] theorem setFlags_maxDepth (m : BitVec 5) : (setFlags m s).maxDepth = s.maxDepth := rfl
@[simp] theorem setFlags_errOffset (m : BitVec 5) : (setFlags m s).errOffset = s.errOffset := rfl
@[simp] theorem setFlags_ft (m : BitVec 5) : (setFlags m s).ft = s.ft := rfl
@[simp] theorem setFlags_node (m : BitVec 5) : (setFlags m s).node = s.node := rfl
@[simp] theorem setFlags_ct (m : BitVec 5) : (setFlags m s).ct = s.ct := rfl
@[simp] theorem setFlags_dt (m : BitVec 5) : (setFlags m s).dt = s.dt := rfl
@[simp] theorem setFlags_pq (m : BitVec 5) : (setFlags m s).pq = s.pq := rfl
@[simp] theorem setFlags_stack (m : BitVec 5) : (setFlags m s).stack = s.stack := rfl
@[simp] theorem setFlags_remL (m : BitVec 5) : (setFlags m s).remL = s.remL := rfl
@[simp] theorem setFlags_remI (m : BitVec 5) : (setFlags m s).remI = s.remI := rfl
@[simp] theorem setFlags_rem (m : BitVec 5) : (setFlags m s).rem = s.rem := rfl
@[simp] theorem setFlags_pathBuf (m : BitVec 5) : (setFlags m s).pathBuf = s.pathBuf := rfl
@[simp] theorem setFlags_inBytes (m : BitVec 5) : (setFlags m s).inBytes = s.inBytes := rfl
@[simp] theorem setFlags_outBits (m : BitVec 5) : (setFlags m s).outBits = s.outBits := rfl
@[simp] theorem setFlags_inBits (m : BitVec 5) : (setFlags m s).inBits = s.inBits := rfl
@[simp] theorem setFlags_outBytes (m : BitVec 5) : (setFlags m s).outBytes = s.outBytes := rfl
@[simp] theorem setFlags_ioAnswers (m : BitVec 5) : (setFlags m s).ioAnswers = s.ioAnswers := rfl
@[simp] theorem setFlags_host (m : BitVec 5) : (setFlags m s).host = s.host := rfl
@[simp] theorem setFlags_phase (m : BitVec 5) : (setFlags m s).phase = s.phase := rfl
@[simp] theorem setFlags_draws (m : BitVec 5) : (setFlags m s).draws = s.draws := rfl

/-! ### raise -/

@[simp] theorem raise_status (k : ErrKind) (g : Opcode) : (raise k g s).status = statusWord k g := rfl
@[simp] theorem raise_flags (k : ErrKind) (g : Opcode) : (raise k g s).flags = s.flags := rfl
@[simp] theorem raise_total (k : ErrKind) (g : Opcode) : (raise k g s).total = s.total := rfl
@[simp] theorem raise_leafCnt (k : ErrKind) (g : Opcode) : (raise k g s).leafCnt = s.leafCnt := rfl
@[simp] theorem raise_root (k : ErrKind) (g : Opcode) : (raise k g s).root = s.root := rfl
@[simp] theorem raise_nCount (k : ErrKind) (g : Opcode) : (raise k g s).nCount = s.nCount := rfl
@[simp] theorem raise_maxDepth (k : ErrKind) (g : Opcode) : (raise k g s).maxDepth = s.maxDepth := rfl
@[simp] theorem raise_errOffset (k : ErrKind) (g : Opcode) : (raise k g s).errOffset = Config.errOffset s.draws := rfl
@[simp] theorem raise_ft (k : ErrKind) (g : Opcode) : (raise k g s).ft = s.ft := rfl
@[simp] theorem raise_node (k : ErrKind) (g : Opcode) : (raise k g s).node = s.node := rfl
@[simp] theorem raise_ct (k : ErrKind) (g : Opcode) : (raise k g s).ct = s.ct := rfl
@[simp] theorem raise_dt (k : ErrKind) (g : Opcode) : (raise k g s).dt = s.dt := rfl
@[simp] theorem raise_pq (k : ErrKind) (g : Opcode) : (raise k g s).pq = s.pq := rfl
@[simp] theorem raise_stack (k : ErrKind) (g : Opcode) : (raise k g s).stack = s.stack := rfl
@[simp] theorem raise_remL (k : ErrKind) (g : Opcode) : (raise k g s).remL = s.remL := rfl
@[simp] theorem raise_remI (k : ErrKind) (g : Opcode) : (raise k g s).remI = s.remI := rfl
@[simp] theorem raise_rem (k : ErrKind) (g : Opcode) : (raise k g s).rem = s.rem := rfl
@[simp] theorem raise_pathBuf (k : ErrKind) (g : Opcode) : (raise k g s).pathBuf = s.pathBuf := rfl
@[simp] theorem raise_inBytes (k : ErrKind) (g : Opcode) : (raise k g s).inBytes = s.inBytes := rfl
@[simp] theorem raise_outBits (k : ErrKind) (g : Opcode) : (raise k g s).outBits = s.outBits := rfl
@[simp] theorem raise_inBits (k : ErrKind) (g : Opcode) : (raise k g s).inBits = s.inBits := rfl
@[simp] theorem raise_outBytes (k : ErrKind) (g : Opcode) : (raise k g s).outBytes = s.outBytes := rfl
@[simp] theorem raise_ioAnswers (k : ErrKind) (g : Opcode) : (raise k g s).ioAnswers = s.ioAnswers := rfl
@[simp] theorem raise_host (k : ErrKind) (g : Opcode) : (raise k g s).host = s.host := rfl
@[simp] theorem raise_phase (k : ErrKind) (g : Opcode) : (raise k g s).phase = .idle := rfl
@[simp] theorem raise_draws (k : ErrKind) (g : Opcode) : (raise k g s).draws = s.draws + 1 := rfl

/-! ### dropNodes -/

@[simp] theorem dropNodes_status : (dropNodes s).status = s.status := rfl
@[simp] theorem dropNodes_flags : (dropNodes s).flags = s.flags := rfl
@[simp] theorem dropNodes_total : (dropNodes s).total = s.total := rfl
@[simp] theorem dropNodes_leafCnt : (dropNodes s).leafCnt = s.leafCnt := rfl
@[simp] theorem dropNodes_root : (dropNodes s).root = s.root := rfl
@[simp] theorem dropNodes_nCount : (dropNodes s).nCount = 0#18 := rfl
@[simp] theorem dropNodes_maxDepth : (dropNodes s).maxDepth = s.maxDepth := rfl
@[simp] theorem dropNodes_errOffset : (dropNodes s).errOffset = s.errOffset := rfl
@[simp] theorem dropNodes_ft : (dropNodes s).ft = s.ft := rfl
@[simp] theorem dropNodes_node : (dropNodes s).node = [] := rfl
@[simp] theorem dropNodes_ct : (dropNodes s).ct = s.ct := rfl
@[simp] theorem dropNodes_dt : (dropNodes s).dt = s.dt := rfl
@[simp] theorem dropNodes_pq : (dropNodes s).pq = s.pq := rfl
@[simp] theorem dropNodes_stack : (dropNodes s).stack = s.stack := rfl
@[simp] theorem dropNodes_remL : (dropNodes s).remL = s.remL := rfl
@[simp] theorem dropNodes_remI : (dropNodes s).remI = s.remI := rfl
@[simp] theorem dropNodes_rem : (dropNodes s).rem = s.rem := rfl
@[simp] theorem dropNodes_pathBuf : (dropNodes s).pathBuf = s.pathBuf := rfl
@[simp] theorem dropNodes_inBytes : (dropNodes s).inBytes = s.inBytes := rfl
@[simp] theorem dropNodes_outBits : (dropNodes s).outBits = s.outBits := rfl
@[simp] theorem dropNodes_inBits : (dropNodes s).inBits = s.inBits := rfl
@[simp] theorem dropNodes_outBytes : (dropNodes s).outBytes = s.outBytes := rfl
@[simp] theorem dropNodes_ioAnswers : (dropNodes s).ioAnswers = s.ioAnswers := rfl
@[simp] theorem dropNodes_host : (dropNodes s).host = s.host := rfl
@[simp] theorem dropNodes_phase : (dropNodes s).phase = s.phase := rfl
@[simp] theorem dropNodes_draws : (dropNodes s).draws = s.draws := rfl

/-! ### clearCore -/

@[simp] theorem clearCore_status : (clearCore s).status = 0x00#8 := rfl
@[simp] theorem clearCore_flags : (clearCore s).flags = 0#5 := rfl
@[simp] theorem clearCore_total : (clearCore s).total = 0#32 := rfl
@[simp] theorem clearCore_leafCnt : (clearCore s).leafCnt = 0#32 := rfl
@[simp] theorem clearCore_root : (clearCore s).root = none := rfl
@[simp] theorem clearCore_nCount : (clearCore s).nCount = 0#18 := rfl
@[simp] theorem clearCore_maxDepth : (clearCore s).maxDepth = 0#17 := rfl
@[simp] theorem clearCore_errOffset : (clearCore s).errOffset = 0#64 := rfl
@[simp] theorem clearCore_ft : (clearCore s).ft = [] := rfl
@[simp] theorem clearCore_node : (clearCore s).node = [] := rfl
@[simp] theorem clearCore_ct : (clearCore s).ct = [] := rfl
@[simp] theorem clearCore_dt : (clearCore s).dt = [] := rfl
@[simp] theorem clearCore_pq : (clearCore s).pq = s.pq := rfl
@[simp] theorem clearCore_stack : (clearCore s).stack = s.stack := rfl
@[simp] theorem clearCore_remL : (clearCore s).remL = s.remL := rfl
@[simp] theorem clearCore_remI : (clearCore s).remI = s.remI := rfl
@[simp] theorem clearCore_rem : (clearCore s).rem = s.rem := rfl
@[simp] theorem clearCore_pathBuf : (clearCore s).pathBuf = s.pathBuf := rfl
@[simp] theorem clearCore_inBytes : (clearCore s).inBytes = s.inBytes := rfl
@[simp] theorem clearCore_outBits : (clearCore s).outBits = s.outBits := rfl
@[simp] theorem clearCore_inBits : (clearCore s).inBits = s.inBits := rfl
@[simp] theorem clearCore_outBytes : (clearCore s).outBytes = s.outBytes := rfl
@[simp] theorem clearCore_ioAnswers : (clearCore s).ioAnswers = s.ioAnswers := rfl
@[simp] theorem clearCore_host : (clearCore s).host = s.host := rfl
@[simp] theorem clearCore_phase : (clearCore s).phase = s.phase := rfl
@[simp] theorem clearCore_draws : (clearCore s).draws = s.draws := rfl

/-! ### releasePq -/

@[simp] theorem releasePq_status : (releasePq s).status = s.status := rfl
@[simp] theorem releasePq_flags : (releasePq s).flags = s.flags := rfl
@[simp] theorem releasePq_total : (releasePq s).total = s.total := rfl
@[simp] theorem releasePq_leafCnt : (releasePq s).leafCnt = s.leafCnt := rfl
@[simp] theorem releasePq_root : (releasePq s).root = s.root := rfl
@[simp] theorem releasePq_nCount : (releasePq s).nCount = s.nCount := rfl
@[simp] theorem releasePq_maxDepth : (releasePq s).maxDepth = s.maxDepth := rfl
@[simp] theorem releasePq_errOffset : (releasePq s).errOffset = s.errOffset := rfl
@[simp] theorem releasePq_ft : (releasePq s).ft = s.ft := rfl
@[simp] theorem releasePq_node : (releasePq s).node = s.node := rfl
@[simp] theorem releasePq_ct : (releasePq s).ct = s.ct := rfl
@[simp] theorem releasePq_dt : (releasePq s).dt = s.dt := rfl
@[simp] theorem releasePq_pq : (releasePq s).pq = (Config.freePq s.draws).take Config.maxLeaves := rfl
@[simp] theorem releasePq_stack : (releasePq s).stack = s.stack := rfl
@[simp] theorem releasePq_remL : (releasePq s).remL = s.remL := rfl
@[simp] theorem releasePq_remI : (releasePq s).remI = s.remI := rfl
@[simp] theorem releasePq_rem : (releasePq s).rem = s.rem := rfl
@[simp] theorem releasePq_pathBuf : (releasePq s).pathBuf = s.pathBuf := rfl
@[simp] theorem releasePq_inBytes : (releasePq s).inBytes = s.inBytes := rfl
@[simp] theorem releasePq_outBits : (releasePq s).outBits = s.outBits := rfl
@[simp] theorem releasePq_inBits : (releasePq s).inBits = s.inBits := rfl
@[simp] theorem releasePq_outBytes : (releasePq s).outBytes = s.outBytes := rfl
@[simp] theorem releasePq_ioAnswers : (releasePq s).ioAnswers = s.ioAnswers := rfl
@[simp] theorem releasePq_host : (releasePq s).host = s.host := rfl
@[simp] theorem releasePq_phase : (releasePq s).phase = s.phase := rfl
@[simp] theorem releasePq_draws : (releasePq s).draws = s.draws + 1 := rfl

/-! ### releaseStack -/

@[simp] theorem releaseStack_status : (releaseStack s).status = s.status := rfl
@[simp] theorem releaseStack_flags : (releaseStack s).flags = s.flags := rfl
@[simp] theorem releaseStack_total : (releaseStack s).total = s.total := rfl
@[simp] theorem releaseStack_leafCnt : (releaseStack s).leafCnt = s.leafCnt := rfl
@[simp] theorem releaseStack_root : (releaseStack s).root = s.root := rfl
@[simp] theorem releaseStack_nCount : (releaseStack s).nCount = s.nCount := rfl
@[simp] theorem releaseStack_maxDepth : (releaseStack s).maxDepth = s.maxDepth := rfl
@[simp] theorem releaseStack_errOffset : (releaseStack s).errOffset = s.errOffset := rfl
@[simp] theorem releaseStack_ft : (releaseStack s).ft = s.ft := rfl
@[simp] theorem releaseStack_node : (releaseStack s).node = s.node := rfl
@[simp] theorem releaseStack_ct : (releaseStack s).ct = s.ct := rfl
@[simp] theorem releaseStack_dt : (releaseStack s).dt = s.dt := rfl
@[simp] theorem releaseStack_pq : (releaseStack s).pq = s.pq := rfl
@[simp] theorem releaseStack_stack : (releaseStack s).stack = (Config.freeStack s.draws).take Config.maxLeaves := rfl
@[simp] theorem releaseStack_remL : (releaseStack s).remL = Config.freeRemL s.draws := rfl
@[simp] theorem releaseStack_remI : (releaseStack s).remI = Config.freeRemI s.draws := rfl
@[simp] theorem releaseStack_rem : (releaseStack s).rem = s.rem := rfl
@[simp] theorem releaseStack_pathBuf : (releaseStack s).pathBuf = s.pathBuf := rfl
@[simp] theorem releaseStack_inBytes : (releaseStack s).inBytes = s.inBytes := rfl
@[simp] theorem releaseStack_outBits : (releaseStack s).outBits = s.outBits := rfl
@[simp] theorem releaseStack_inBits : (releaseStack s).inBits = s.inBits := rfl
@[simp] theorem releaseStack_outBytes : (releaseStack s).outBytes = s.outBytes := rfl
@[simp] theorem releaseStack_ioAnswers : (releaseStack s).ioAnswers = s.ioAnswers := rfl
@[simp] theorem releaseStack_host : (releaseStack s).host = s.host := rfl
@[simp] theorem releaseStack_phase : (releaseStack s).phase = s.phase := rfl
@[simp] theorem releaseStack_draws : (releaseStack s).draws = s.draws + 1 := rfl

/-! ### releasePath -/

@[simp] theorem releasePath_status : (releasePath s).status = s.status := rfl
@[simp] theorem releasePath_flags : (releasePath s).flags = s.flags := rfl
@[simp] theorem releasePath_total : (releasePath s).total = s.total := rfl
@[simp] theorem releasePath_leafCnt : (releasePath s).leafCnt = s.leafCnt := rfl
@[simp] theorem releasePath_root : (releasePath s).root = s.root := rfl
@[simp] theorem releasePath_nCount : (releasePath s).nCount = s.nCount := rfl
@[simp] theorem releasePath_maxDepth : (releasePath s).maxDepth = s.maxDepth := rfl
@[simp] theorem releasePath_errOffset : (releasePath s).errOffset = s.errOffset := rfl
@[simp] theorem releasePath_ft : (releasePath s).ft = s.ft := rfl
@[simp] theorem releasePath_node : (releasePath s).node = s.node := rfl
@[simp] theorem releasePath_ct : (releasePath s).ct = s.ct := rfl
@[simp] theorem releasePath_dt : (releasePath s).dt = s.dt := rfl
@[simp] theorem releasePath_pq : (releasePath s).pq = s.pq := rfl
@[simp] theorem releasePath_stack : (releasePath s).stack = s.stack := rfl
@[simp] theorem releasePath_remL : (releasePath s).remL = s.remL := rfl
@[simp] theorem releasePath_remI : (releasePath s).remI = s.remI := rfl
@[simp] theorem releasePath_rem : (releasePath s).rem = Config.freeRem s.draws := rfl
@[simp] theorem releasePath_pathBuf : (releasePath s).pathBuf = Config.freePathBuf s.draws := rfl
@[simp] theorem releasePath_inBytes : (releasePath s).inBytes = s.inBytes := rfl
@[simp] theorem releasePath_outBits : (releasePath s).outBits = s.outBits := rfl
@[simp] theorem releasePath_inBits : (releasePath s).inBits = s.inBits := rfl
@[simp] theorem releasePath_outBytes : (releasePath s).outBytes = s.outBytes := rfl
@[simp] theorem releasePath_ioAnswers : (releasePath s).ioAnswers = s.ioAnswers := rfl
@[simp] theorem releasePath_host : (releasePath s).host = s.host := rfl
@[simp] theorem releasePath_phase : (releasePath s).phase = s.phase := rfl
@[simp] theorem releasePath_draws : (releasePath s).draws = s.draws + 1 := rfl

/-! ### writeFt -/

@[simp] theorem writeFt_status (x : Symbol) (n : Word32) : (writeFt x n s).status = s.status := rfl
@[simp] theorem writeFt_flags (x : Symbol) (n : Word32) : (writeFt x n s).flags = s.flags := rfl
@[simp] theorem writeFt_total (x : Symbol) (n : Word32) : (writeFt x n s).total = s.total := rfl
@[simp] theorem writeFt_leafCnt (x : Symbol) (n : Word32) : (writeFt x n s).leafCnt = s.leafCnt := rfl
@[simp] theorem writeFt_root (x : Symbol) (n : Word32) : (writeFt x n s).root = s.root := rfl
@[simp] theorem writeFt_nCount (x : Symbol) (n : Word32) : (writeFt x n s).nCount = s.nCount := rfl
@[simp] theorem writeFt_maxDepth (x : Symbol) (n : Word32) : (writeFt x n s).maxDepth = s.maxDepth := rfl
@[simp] theorem writeFt_errOffset (x : Symbol) (n : Word32) : (writeFt x n s).errOffset = s.errOffset := rfl
@[simp] theorem writeFt_ft (x : Symbol) (n : Word32) : (writeFt x n s).ft = if n = 0#32 then Table.drop symRank s.ft x else Table.put symRank s.ft x n := rfl
@[simp] theorem writeFt_node (x : Symbol) (n : Word32) : (writeFt x n s).node = s.node := rfl
@[simp] theorem writeFt_ct (x : Symbol) (n : Word32) : (writeFt x n s).ct = s.ct := rfl
@[simp] theorem writeFt_dt (x : Symbol) (n : Word32) : (writeFt x n s).dt = s.dt := rfl
@[simp] theorem writeFt_pq (x : Symbol) (n : Word32) : (writeFt x n s).pq = s.pq := rfl
@[simp] theorem writeFt_stack (x : Symbol) (n : Word32) : (writeFt x n s).stack = s.stack := rfl
@[simp] theorem writeFt_remL (x : Symbol) (n : Word32) : (writeFt x n s).remL = s.remL := rfl
@[simp] theorem writeFt_remI (x : Symbol) (n : Word32) : (writeFt x n s).remI = s.remI := rfl
@[simp] theorem writeFt_rem (x : Symbol) (n : Word32) : (writeFt x n s).rem = s.rem := rfl
@[simp] theorem writeFt_pathBuf (x : Symbol) (n : Word32) : (writeFt x n s).pathBuf = s.pathBuf := rfl
@[simp] theorem writeFt_inBytes (x : Symbol) (n : Word32) : (writeFt x n s).inBytes = s.inBytes := rfl
@[simp] theorem writeFt_outBits (x : Symbol) (n : Word32) : (writeFt x n s).outBits = s.outBits := rfl
@[simp] theorem writeFt_inBits (x : Symbol) (n : Word32) : (writeFt x n s).inBits = s.inBits := rfl
@[simp] theorem writeFt_outBytes (x : Symbol) (n : Word32) : (writeFt x n s).outBytes = s.outBytes := rfl
@[simp] theorem writeFt_ioAnswers (x : Symbol) (n : Word32) : (writeFt x n s).ioAnswers = s.ioAnswers := rfl
@[simp] theorem writeFt_host (x : Symbol) (n : Word32) : (writeFt x n s).host = s.host := rfl
@[simp] theorem writeFt_phase (x : Symbol) (n : Word32) : (writeFt x n s).phase = s.phase := rfl
@[simp] theorem writeFt_draws (x : Symbol) (n : Word32) : (writeFt x n s).draws = s.draws := rfl

/-! ### writeCt -/

@[simp] theorem writeCt_status (x : Symbol) (p : Bits) : (writeCt x p s).status = s.status := rfl
@[simp] theorem writeCt_flags (x : Symbol) (p : Bits) : (writeCt x p s).flags = s.flags := rfl
@[simp] theorem writeCt_total (x : Symbol) (p : Bits) : (writeCt x p s).total = s.total := rfl
@[simp] theorem writeCt_leafCnt (x : Symbol) (p : Bits) : (writeCt x p s).leafCnt = s.leafCnt := rfl
@[simp] theorem writeCt_root (x : Symbol) (p : Bits) : (writeCt x p s).root = s.root := rfl
@[simp] theorem writeCt_nCount (x : Symbol) (p : Bits) : (writeCt x p s).nCount = s.nCount := rfl
@[simp] theorem writeCt_maxDepth (x : Symbol) (p : Bits) : (writeCt x p s).maxDepth = s.maxDepth := rfl
@[simp] theorem writeCt_errOffset (x : Symbol) (p : Bits) : (writeCt x p s).errOffset = s.errOffset := rfl
@[simp] theorem writeCt_ft (x : Symbol) (p : Bits) : (writeCt x p s).ft = s.ft := rfl
@[simp] theorem writeCt_node (x : Symbol) (p : Bits) : (writeCt x p s).node = s.node := rfl
@[simp] theorem writeCt_ct (x : Symbol) (p : Bits) : (writeCt x p s).ct = Table.put symRank s.ct x p := rfl
@[simp] theorem writeCt_dt (x : Symbol) (p : Bits) : (writeCt x p s).dt = s.dt := rfl
@[simp] theorem writeCt_pq (x : Symbol) (p : Bits) : (writeCt x p s).pq = s.pq := rfl
@[simp] theorem writeCt_stack (x : Symbol) (p : Bits) : (writeCt x p s).stack = s.stack := rfl
@[simp] theorem writeCt_remL (x : Symbol) (p : Bits) : (writeCt x p s).remL = s.remL := rfl
@[simp] theorem writeCt_remI (x : Symbol) (p : Bits) : (writeCt x p s).remI = s.remI := rfl
@[simp] theorem writeCt_rem (x : Symbol) (p : Bits) : (writeCt x p s).rem = s.rem := rfl
@[simp] theorem writeCt_pathBuf (x : Symbol) (p : Bits) : (writeCt x p s).pathBuf = s.pathBuf := rfl
@[simp] theorem writeCt_inBytes (x : Symbol) (p : Bits) : (writeCt x p s).inBytes = s.inBytes := rfl
@[simp] theorem writeCt_outBits (x : Symbol) (p : Bits) : (writeCt x p s).outBits = s.outBits := rfl
@[simp] theorem writeCt_inBits (x : Symbol) (p : Bits) : (writeCt x p s).inBits = s.inBits := rfl
@[simp] theorem writeCt_outBytes (x : Symbol) (p : Bits) : (writeCt x p s).outBytes = s.outBytes := rfl
@[simp] theorem writeCt_ioAnswers (x : Symbol) (p : Bits) : (writeCt x p s).ioAnswers = s.ioAnswers := rfl
@[simp] theorem writeCt_host (x : Symbol) (p : Bits) : (writeCt x p s).host = s.host := rfl
@[simp] theorem writeCt_phase (x : Symbol) (p : Bits) : (writeCt x p s).phase = s.phase := rfl
@[simp] theorem writeCt_draws (x : Symbol) (p : Bits) : (writeCt x p s).draws = s.draws := rfl

/-! ### writeDt -/

@[simp] theorem writeDt_status (p : Bits) (x : Symbol) : (writeDt p x s).status = s.status := rfl
@[simp] theorem writeDt_flags (p : Bits) (x : Symbol) : (writeDt p x s).flags = s.flags := rfl
@[simp] theorem writeDt_total (p : Bits) (x : Symbol) : (writeDt p x s).total = s.total := rfl
@[simp] theorem writeDt_leafCnt (p : Bits) (x : Symbol) : (writeDt p x s).leafCnt = s.leafCnt := rfl
@[simp] theorem writeDt_root (p : Bits) (x : Symbol) : (writeDt p x s).root = s.root := rfl
@[simp] theorem writeDt_nCount (p : Bits) (x : Symbol) : (writeDt p x s).nCount = s.nCount := rfl
@[simp] theorem writeDt_maxDepth (p : Bits) (x : Symbol) : (writeDt p x s).maxDepth = s.maxDepth := rfl
@[simp] theorem writeDt_errOffset (p : Bits) (x : Symbol) : (writeDt p x s).errOffset = s.errOffset := rfl
@[simp] theorem writeDt_ft (p : Bits) (x : Symbol) : (writeDt p x s).ft = s.ft := rfl
@[simp] theorem writeDt_node (p : Bits) (x : Symbol) : (writeDt p x s).node = s.node := rfl
@[simp] theorem writeDt_ct (p : Bits) (x : Symbol) : (writeDt p x s).ct = s.ct := rfl
@[simp] theorem writeDt_dt (p : Bits) (x : Symbol) : (writeDt p x s).dt = Table.put pathRank s.dt p x := rfl
@[simp] theorem writeDt_pq (p : Bits) (x : Symbol) : (writeDt p x s).pq = s.pq := rfl
@[simp] theorem writeDt_stack (p : Bits) (x : Symbol) : (writeDt p x s).stack = s.stack := rfl
@[simp] theorem writeDt_remL (p : Bits) (x : Symbol) : (writeDt p x s).remL = s.remL := rfl
@[simp] theorem writeDt_remI (p : Bits) (x : Symbol) : (writeDt p x s).remI = s.remI := rfl
@[simp] theorem writeDt_rem (p : Bits) (x : Symbol) : (writeDt p x s).rem = s.rem := rfl
@[simp] theorem writeDt_pathBuf (p : Bits) (x : Symbol) : (writeDt p x s).pathBuf = s.pathBuf := rfl
@[simp] theorem writeDt_inBytes (p : Bits) (x : Symbol) : (writeDt p x s).inBytes = s.inBytes := rfl
@[simp] theorem writeDt_outBits (p : Bits) (x : Symbol) : (writeDt p x s).outBits = s.outBits := rfl
@[simp] theorem writeDt_inBits (p : Bits) (x : Symbol) : (writeDt p x s).inBits = s.inBits := rfl
@[simp] theorem writeDt_outBytes (p : Bits) (x : Symbol) : (writeDt p x s).outBytes = s.outBytes := rfl
@[simp] theorem writeDt_ioAnswers (p : Bits) (x : Symbol) : (writeDt p x s).ioAnswers = s.ioAnswers := rfl
@[simp] theorem writeDt_host (p : Bits) (x : Symbol) : (writeDt p x s).host = s.host := rfl
@[simp] theorem writeDt_phase (p : Bits) (x : Symbol) : (writeDt p x s).phase = s.phase := rfl
@[simp] theorem writeDt_draws (p : Bits) (x : Symbol) : (writeDt p x s).draws = s.draws := rfl

/-! ### appendBits -/

@[simp] theorem appendBits_status (b : Bits) : (appendBits b s).status = s.status := rfl
@[simp] theorem appendBits_flags (b : Bits) : (appendBits b s).flags = s.flags := rfl
@[simp] theorem appendBits_total (b : Bits) : (appendBits b s).total = s.total := rfl
@[simp] theorem appendBits_leafCnt (b : Bits) : (appendBits b s).leafCnt = s.leafCnt := rfl
@[simp] theorem appendBits_root (b : Bits) : (appendBits b s).root = s.root := rfl
@[simp] theorem appendBits_nCount (b : Bits) : (appendBits b s).nCount = s.nCount := rfl
@[simp] theorem appendBits_maxDepth (b : Bits) : (appendBits b s).maxDepth = s.maxDepth := rfl
@[simp] theorem appendBits_errOffset (b : Bits) : (appendBits b s).errOffset = s.errOffset := rfl
@[simp] theorem appendBits_ft (b : Bits) : (appendBits b s).ft = s.ft := rfl
@[simp] theorem appendBits_node (b : Bits) : (appendBits b s).node = s.node := rfl
@[simp] theorem appendBits_ct (b : Bits) : (appendBits b s).ct = s.ct := rfl
@[simp] theorem appendBits_dt (b : Bits) : (appendBits b s).dt = s.dt := rfl
@[simp] theorem appendBits_pq (b : Bits) : (appendBits b s).pq = s.pq := rfl
@[simp] theorem appendBits_stack (b : Bits) : (appendBits b s).stack = s.stack := rfl
@[simp] theorem appendBits_remL (b : Bits) : (appendBits b s).remL = s.remL := rfl
@[simp] theorem appendBits_remI (b : Bits) : (appendBits b s).remI = s.remI := rfl
@[simp] theorem appendBits_rem (b : Bits) : (appendBits b s).rem = s.rem := rfl
@[simp] theorem appendBits_pathBuf (b : Bits) : (appendBits b s).pathBuf = s.pathBuf := rfl
@[simp] theorem appendBits_inBytes (b : Bits) : (appendBits b s).inBytes = s.inBytes := rfl
@[simp] theorem appendBits_outBits (b : Bits) : (appendBits b s).outBits = s.outBits ++ b := rfl
@[simp] theorem appendBits_inBits (b : Bits) : (appendBits b s).inBits = s.inBits := rfl
@[simp] theorem appendBits_outBytes (b : Bits) : (appendBits b s).outBytes = s.outBytes := rfl
@[simp] theorem appendBits_ioAnswers (b : Bits) : (appendBits b s).ioAnswers = s.ioAnswers := rfl
@[simp] theorem appendBits_host (b : Bits) : (appendBits b s).host = s.host := rfl
@[simp] theorem appendBits_phase (b : Bits) : (appendBits b s).phase = s.phase := rfl
@[simp] theorem appendBits_draws (b : Bits) : (appendBits b s).draws = s.draws := rfl

/-! ### padOut -/

@[simp] theorem padOut_status : (padOut s).status = s.status := rfl
@[simp] theorem padOut_flags : (padOut s).flags = s.flags := rfl
@[simp] theorem padOut_total : (padOut s).total = s.total := rfl
@[simp] theorem padOut_leafCnt : (padOut s).leafCnt = s.leafCnt := rfl
@[simp] theorem padOut_root : (padOut s).root = s.root := rfl
@[simp] theorem padOut_nCount : (padOut s).nCount = s.nCount := rfl
@[simp] theorem padOut_maxDepth : (padOut s).maxDepth = s.maxDepth := rfl
@[simp] theorem padOut_errOffset : (padOut s).errOffset = s.errOffset := rfl
@[simp] theorem padOut_ft : (padOut s).ft = s.ft := rfl
@[simp] theorem padOut_node : (padOut s).node = s.node := rfl
@[simp] theorem padOut_ct : (padOut s).ct = s.ct := rfl
@[simp] theorem padOut_dt : (padOut s).dt = s.dt := rfl
@[simp] theorem padOut_pq : (padOut s).pq = s.pq := rfl
@[simp] theorem padOut_stack : (padOut s).stack = s.stack := rfl
@[simp] theorem padOut_remL : (padOut s).remL = s.remL := rfl
@[simp] theorem padOut_remI : (padOut s).remI = s.remI := rfl
@[simp] theorem padOut_rem : (padOut s).rem = s.rem := rfl
@[simp] theorem padOut_pathBuf : (padOut s).pathBuf = s.pathBuf := rfl
@[simp] theorem padOut_inBytes : (padOut s).inBytes = s.inBytes := rfl
@[simp] theorem padOut_outBits : (padOut s).outBits = s.outBits ++ padding s.outBits.length := rfl
@[simp] theorem padOut_inBits : (padOut s).inBits = s.inBits := rfl
@[simp] theorem padOut_outBytes : (padOut s).outBytes = s.outBytes := rfl
@[simp] theorem padOut_ioAnswers : (padOut s).ioAnswers = s.ioAnswers := rfl
@[simp] theorem padOut_host : (padOut s).host = s.host := rfl
@[simp] theorem padOut_phase : (padOut s).phase = s.phase := rfl
@[simp] theorem padOut_draws : (padOut s).draws = s.draws := rfl

/-! ### pqInsert -/

@[simp] theorem pqInsert_status (i : NodeIdx) : (pqInsert i s).status = s.status := rfl
@[simp] theorem pqInsert_flags (i : NodeIdx) : (pqInsert i s).flags = s.flags := rfl
@[simp] theorem pqInsert_total (i : NodeIdx) : (pqInsert i s).total = s.total := rfl
@[simp] theorem pqInsert_leafCnt (i : NodeIdx) : (pqInsert i s).leafCnt = s.leafCnt := rfl
@[simp] theorem pqInsert_root (i : NodeIdx) : (pqInsert i s).root = s.root := rfl
@[simp] theorem pqInsert_nCount (i : NodeIdx) : (pqInsert i s).nCount = s.nCount := rfl
@[simp] theorem pqInsert_maxDepth (i : NodeIdx) : (pqInsert i s).maxDepth = s.maxDepth := rfl
@[simp] theorem pqInsert_errOffset (i : NodeIdx) : (pqInsert i s).errOffset = s.errOffset := rfl
@[simp] theorem pqInsert_ft (i : NodeIdx) : (pqInsert i s).ft = s.ft := rfl
@[simp] theorem pqInsert_node (i : NodeIdx) : (pqInsert i s).node = s.node := rfl
@[simp] theorem pqInsert_ct (i : NodeIdx) : (pqInsert i s).ct = s.ct := rfl
@[simp] theorem pqInsert_dt (i : NodeIdx) : (pqInsert i s).dt = s.dt := rfl
@[simp] theorem pqInsert_pq (i : NodeIdx) : (pqInsert i s).pq = i :: s.pq := rfl
@[simp] theorem pqInsert_stack (i : NodeIdx) : (pqInsert i s).stack = s.stack := rfl
@[simp] theorem pqInsert_remL (i : NodeIdx) : (pqInsert i s).remL = s.remL := rfl
@[simp] theorem pqInsert_remI (i : NodeIdx) : (pqInsert i s).remI = s.remI := rfl
@[simp] theorem pqInsert_rem (i : NodeIdx) : (pqInsert i s).rem = s.rem := rfl
@[simp] theorem pqInsert_pathBuf (i : NodeIdx) : (pqInsert i s).pathBuf = s.pathBuf := rfl
@[simp] theorem pqInsert_inBytes (i : NodeIdx) : (pqInsert i s).inBytes = s.inBytes := rfl
@[simp] theorem pqInsert_outBits (i : NodeIdx) : (pqInsert i s).outBits = s.outBits := rfl
@[simp] theorem pqInsert_inBits (i : NodeIdx) : (pqInsert i s).inBits = s.inBits := rfl
@[simp] theorem pqInsert_outBytes (i : NodeIdx) : (pqInsert i s).outBytes = s.outBytes := rfl
@[simp] theorem pqInsert_ioAnswers (i : NodeIdx) : (pqInsert i s).ioAnswers = s.ioAnswers := rfl
@[simp] theorem pqInsert_host (i : NodeIdx) : (pqInsert i s).host = s.host := rfl
@[simp] theorem pqInsert_phase (i : NodeIdx) : (pqInsert i s).phase = s.phase := rfl
@[simp] theorem pqInsert_draws (i : NodeIdx) : (pqInsert i s).draws = s.draws := rfl

/-! ### pushStack -/

@[simp] theorem pushStack_status (i : NodeIdx) : (pushStack i s).status = s.status := rfl
@[simp] theorem pushStack_flags (i : NodeIdx) : (pushStack i s).flags = s.flags := rfl
@[simp] theorem pushStack_total (i : NodeIdx) : (pushStack i s).total = s.total := rfl
@[simp] theorem pushStack_leafCnt (i : NodeIdx) : (pushStack i s).leafCnt = s.leafCnt := rfl
@[simp] theorem pushStack_root (i : NodeIdx) : (pushStack i s).root = s.root := rfl
@[simp] theorem pushStack_nCount (i : NodeIdx) : (pushStack i s).nCount = s.nCount := rfl
@[simp] theorem pushStack_maxDepth (i : NodeIdx) : (pushStack i s).maxDepth = s.maxDepth := rfl
@[simp] theorem pushStack_errOffset (i : NodeIdx) : (pushStack i s).errOffset = s.errOffset := rfl
@[simp] theorem pushStack_ft (i : NodeIdx) : (pushStack i s).ft = s.ft := rfl
@[simp] theorem pushStack_node (i : NodeIdx) : (pushStack i s).node = s.node := rfl
@[simp] theorem pushStack_ct (i : NodeIdx) : (pushStack i s).ct = s.ct := rfl
@[simp] theorem pushStack_dt (i : NodeIdx) : (pushStack i s).dt = s.dt := rfl
@[simp] theorem pushStack_pq (i : NodeIdx) : (pushStack i s).pq = s.pq := rfl
@[simp] theorem pushStack_stack (i : NodeIdx) : (pushStack i s).stack = i :: s.stack := rfl
@[simp] theorem pushStack_remL (i : NodeIdx) : (pushStack i s).remL = s.remL := rfl
@[simp] theorem pushStack_remI (i : NodeIdx) : (pushStack i s).remI = s.remI := rfl
@[simp] theorem pushStack_rem (i : NodeIdx) : (pushStack i s).rem = s.rem := rfl
@[simp] theorem pushStack_pathBuf (i : NodeIdx) : (pushStack i s).pathBuf = s.pathBuf := rfl
@[simp] theorem pushStack_inBytes (i : NodeIdx) : (pushStack i s).inBytes = s.inBytes := rfl
@[simp] theorem pushStack_outBits (i : NodeIdx) : (pushStack i s).outBits = s.outBits := rfl
@[simp] theorem pushStack_inBits (i : NodeIdx) : (pushStack i s).inBits = s.inBits := rfl
@[simp] theorem pushStack_outBytes (i : NodeIdx) : (pushStack i s).outBytes = s.outBytes := rfl
@[simp] theorem pushStack_ioAnswers (i : NodeIdx) : (pushStack i s).ioAnswers = s.ioAnswers := rfl
@[simp] theorem pushStack_host (i : NodeIdx) : (pushStack i s).host = s.host := rfl
@[simp] theorem pushStack_phase (i : NodeIdx) : (pushStack i s).phase = s.phase := rfl
@[simp] theorem pushStack_draws (i : NodeIdx) : (pushStack i s).draws = s.draws := rfl

/-! ### setMaxDepth -/

@[simp] theorem setMaxDepth_status : (setMaxDepth s).status = s.status := rfl
@[simp] theorem setMaxDepth_flags : (setMaxDepth s).flags = s.flags := rfl
@[simp] theorem setMaxDepth_total : (setMaxDepth s).total = s.total := rfl
@[simp] theorem setMaxDepth_leafCnt : (setMaxDepth s).leafCnt = s.leafCnt := rfl
@[simp] theorem setMaxDepth_root : (setMaxDepth s).root = s.root := rfl
@[simp] theorem setMaxDepth_nCount : (setMaxDepth s).nCount = s.nCount := rfl
@[simp] theorem setMaxDepth_maxDepth : (setMaxDepth s).maxDepth = BitVec.ofNat 17 (longestKey s.dt) := rfl
@[simp] theorem setMaxDepth_errOffset : (setMaxDepth s).errOffset = s.errOffset := rfl
@[simp] theorem setMaxDepth_ft : (setMaxDepth s).ft = s.ft := rfl
@[simp] theorem setMaxDepth_node : (setMaxDepth s).node = s.node := rfl
@[simp] theorem setMaxDepth_ct : (setMaxDepth s).ct = s.ct := rfl
@[simp] theorem setMaxDepth_dt : (setMaxDepth s).dt = s.dt := rfl
@[simp] theorem setMaxDepth_pq : (setMaxDepth s).pq = s.pq := rfl
@[simp] theorem setMaxDepth_stack : (setMaxDepth s).stack = s.stack := rfl
@[simp] theorem setMaxDepth_remL : (setMaxDepth s).remL = s.remL := rfl
@[simp] theorem setMaxDepth_remI : (setMaxDepth s).remI = s.remI := rfl
@[simp] theorem setMaxDepth_rem : (setMaxDepth s).rem = s.rem := rfl
@[simp] theorem setMaxDepth_pathBuf : (setMaxDepth s).pathBuf = s.pathBuf := rfl
@[simp] theorem setMaxDepth_inBytes : (setMaxDepth s).inBytes = s.inBytes := rfl
@[simp] theorem setMaxDepth_outBits : (setMaxDepth s).outBits = s.outBits := rfl
@[simp] theorem setMaxDepth_inBits : (setMaxDepth s).inBits = s.inBits := rfl
@[simp] theorem setMaxDepth_outBytes : (setMaxDepth s).outBytes = s.outBytes := rfl
@[simp] theorem setMaxDepth_ioAnswers : (setMaxDepth s).ioAnswers = s.ioAnswers := rfl
@[simp] theorem setMaxDepth_host : (setMaxDepth s).host = s.host := rfl
@[simp] theorem setMaxDepth_phase : (setMaxDepth s).phase = s.phase := rfl
@[simp] theorem setMaxDepth_draws : (setMaxDepth s).draws = s.draws := rfl

/-! ### setIo -/

@[simp] theorem setIo_status (a : List Bool) : (setIo a s).status = s.status := rfl
@[simp] theorem setIo_flags (a : List Bool) : (setIo a s).flags = s.flags := rfl
@[simp] theorem setIo_total (a : List Bool) : (setIo a s).total = s.total := rfl
@[simp] theorem setIo_leafCnt (a : List Bool) : (setIo a s).leafCnt = s.leafCnt := rfl
@[simp] theorem setIo_root (a : List Bool) : (setIo a s).root = s.root := rfl
@[simp] theorem setIo_nCount (a : List Bool) : (setIo a s).nCount = s.nCount := rfl
@[simp] theorem setIo_maxDepth (a : List Bool) : (setIo a s).maxDepth = s.maxDepth := rfl
@[simp] theorem setIo_errOffset (a : List Bool) : (setIo a s).errOffset = s.errOffset := rfl
@[simp] theorem setIo_ft (a : List Bool) : (setIo a s).ft = s.ft := rfl
@[simp] theorem setIo_node (a : List Bool) : (setIo a s).node = s.node := rfl
@[simp] theorem setIo_ct (a : List Bool) : (setIo a s).ct = s.ct := rfl
@[simp] theorem setIo_dt (a : List Bool) : (setIo a s).dt = s.dt := rfl
@[simp] theorem setIo_pq (a : List Bool) : (setIo a s).pq = s.pq := rfl
@[simp] theorem setIo_stack (a : List Bool) : (setIo a s).stack = s.stack := rfl
@[simp] theorem setIo_remL (a : List Bool) : (setIo a s).remL = s.remL := rfl
@[simp] theorem setIo_remI (a : List Bool) : (setIo a s).remI = s.remI := rfl
@[simp] theorem setIo_rem (a : List Bool) : (setIo a s).rem = s.rem := rfl
@[simp] theorem setIo_pathBuf (a : List Bool) : (setIo a s).pathBuf = s.pathBuf := rfl
@[simp] theorem setIo_inBytes (a : List Bool) : (setIo a s).inBytes = s.inBytes := rfl
@[simp] theorem setIo_outBits (a : List Bool) : (setIo a s).outBits = s.outBits := rfl
@[simp] theorem setIo_inBits (a : List Bool) : (setIo a s).inBits = s.inBits := rfl
@[simp] theorem setIo_outBytes (a : List Bool) : (setIo a s).outBytes = s.outBytes := rfl
@[simp] theorem setIo_ioAnswers (a : List Bool) : (setIo a s).ioAnswers = a := rfl
@[simp] theorem setIo_host (a : List Bool) : (setIo a s).host = s.host := rfl
@[simp] theorem setIo_phase (a : List Bool) : (setIo a s).phase = s.phase := rfl
@[simp] theorem setIo_draws (a : List Bool) : (setIo a s).draws = s.draws := rfl

/-! ### seekBytes -/

@[simp] theorem seekBytes_status (n : Nat) : (seekBytes n s).status = s.status := rfl
@[simp] theorem seekBytes_flags (n : Nat) : (seekBytes n s).flags = s.flags := rfl
@[simp] theorem seekBytes_total (n : Nat) : (seekBytes n s).total = s.total := rfl
@[simp] theorem seekBytes_leafCnt (n : Nat) : (seekBytes n s).leafCnt = s.leafCnt := rfl
@[simp] theorem seekBytes_root (n : Nat) : (seekBytes n s).root = s.root := rfl
@[simp] theorem seekBytes_nCount (n : Nat) : (seekBytes n s).nCount = s.nCount := rfl
@[simp] theorem seekBytes_maxDepth (n : Nat) : (seekBytes n s).maxDepth = s.maxDepth := rfl
@[simp] theorem seekBytes_errOffset (n : Nat) : (seekBytes n s).errOffset = s.errOffset := rfl
@[simp] theorem seekBytes_ft (n : Nat) : (seekBytes n s).ft = s.ft := rfl
@[simp] theorem seekBytes_node (n : Nat) : (seekBytes n s).node = s.node := rfl
@[simp] theorem seekBytes_ct (n : Nat) : (seekBytes n s).ct = s.ct := rfl
@[simp] theorem seekBytes_dt (n : Nat) : (seekBytes n s).dt = s.dt := rfl
@[simp] theorem seekBytes_pq (n : Nat) : (seekBytes n s).pq = s.pq := rfl
@[simp] theorem seekBytes_stack (n : Nat) : (seekBytes n s).stack = s.stack := rfl
@[simp] theorem seekBytes_remL (n : Nat) : (seekBytes n s).remL = s.remL := rfl
@[simp] theorem seekBytes_remI (n : Nat) : (seekBytes n s).remI = s.remI := rfl
@[simp] theorem seekBytes_rem (n : Nat) : (seekBytes n s).rem = s.rem := rfl
@[simp] theorem seekBytes_pathBuf (n : Nat) : (seekBytes n s).pathBuf = s.pathBuf := rfl
@[simp] theorem seekBytes_inBytes (n : Nat) : (seekBytes n s).inBytes = { s.inBytes with pos := n } := rfl
@[simp] theorem seekBytes_outBits (n : Nat) : (seekBytes n s).outBits = s.outBits := rfl
@[simp] theorem seekBytes_inBits (n : Nat) : (seekBytes n s).inBits = s.inBits := rfl
@[simp] theorem seekBytes_outBytes (n : Nat) : (seekBytes n s).outBytes = s.outBytes := rfl
@[simp] theorem seekBytes_ioAnswers (n : Nat) : (seekBytes n s).ioAnswers = s.ioAnswers := rfl
@[simp] theorem seekBytes_host (n : Nat) : (seekBytes n s).host = s.host := rfl
@[simp] theorem seekBytes_phase (n : Nat) : (seekBytes n s).phase = s.phase := rfl
@[simp] theorem seekBytes_draws (n : Nat) : (seekBytes n s).draws = s.draws := rfl

/-! ### seekBits -/

@[simp] theorem seekBits_status (n : Nat) : (seekBits n s).status = s.status := rfl
@[simp] theorem seekBits_flags (n : Nat) : (seekBits n s).flags = s.flags := rfl
@[simp] theorem seekBits_total (n : Nat) : (seekBits n s).total = s.total := rfl
@[simp] theorem seekBits_leafCnt (n : Nat) : (seekBits n s).leafCnt = s.leafCnt := rfl
@[simp] theorem seekBits_root (n : Nat) : (seekBits n s).root = s.root := rfl
@[simp] theorem seekBits_nCount (n : Nat) : (seekBits n s).nCount = s.nCount := rfl
@[simp] theorem seekBits_maxDepth (n : Nat) : (seekBits n s).maxDepth = s.maxDepth := rfl
@[simp] theorem seekBits_errOffset (n : Nat) : (seekBits n s).errOffset = s.errOffset := rfl
@[simp] theorem seekBits_ft (n : Nat) : (seekBits n s).ft = s.ft := rfl
@[simp] theorem seekBits_node (n : Nat) : (seekBits n s).node = s.node := rfl
@[simp] theorem seekBits_ct (n : Nat) : (seekBits n s).ct = s.ct := rfl
@[simp] theorem seekBits_dt (n : Nat) : (seekBits n s).dt = s.dt := rfl
@[simp] theorem seekBits_pq (n : Nat) : (seekBits n s).pq = s.pq := rfl
@[simp] theorem seekBits_stack (n : Nat) : (seekBits n s).stack = s.stack := rfl
@[simp] theorem seekBits_remL (n : Nat) : (seekBits n s).remL = s.remL := rfl
@[simp] theorem seekBits_remI (n : Nat) : (seekBits n s).remI = s.remI := rfl
@[simp] theorem seekBits_rem (n : Nat) : (seekBits n s).rem = s.rem := rfl
@[simp] theorem seekBits_pathBuf (n : Nat) : (seekBits n s).pathBuf = s.pathBuf := rfl
@[simp] theorem seekBits_inBytes (n : Nat) : (seekBits n s).inBytes = s.inBytes := rfl
@[simp] theorem seekBits_outBits (n : Nat) : (seekBits n s).outBits = s.outBits := rfl
@[simp] theorem seekBits_inBits (n : Nat) : (seekBits n s).inBits = { s.inBits with pos := n } := rfl
@[simp] theorem seekBits_outBytes (n : Nat) : (seekBits n s).outBytes = s.outBytes := rfl
@[simp] theorem seekBits_ioAnswers (n : Nat) : (seekBits n s).ioAnswers = s.ioAnswers := rfl
@[simp] theorem seekBits_host (n : Nat) : (seekBits n s).host = s.host := rfl
@[simp] theorem seekBits_phase (n : Nat) : (seekBits n s).phase = s.phase := rfl
@[simp] theorem seekBits_draws (n : Nat) : (seekBits n s).draws = s.draws := rfl

/-! ### appendBytes -/

@[simp] theorem appendBytes_status (b : List Byte) : (appendBytes b s).status = s.status := rfl
@[simp] theorem appendBytes_flags (b : List Byte) : (appendBytes b s).flags = s.flags := rfl
@[simp] theorem appendBytes_total (b : List Byte) : (appendBytes b s).total = s.total := rfl
@[simp] theorem appendBytes_leafCnt (b : List Byte) : (appendBytes b s).leafCnt = s.leafCnt := rfl
@[simp] theorem appendBytes_root (b : List Byte) : (appendBytes b s).root = s.root := rfl
@[simp] theorem appendBytes_nCount (b : List Byte) : (appendBytes b s).nCount = s.nCount := rfl
@[simp] theorem appendBytes_maxDepth (b : List Byte) : (appendBytes b s).maxDepth = s.maxDepth := rfl
@[simp] theorem appendBytes_errOffset (b : List Byte) : (appendBytes b s).errOffset = s.errOffset := rfl
@[simp] theorem appendBytes_ft (b : List Byte) : (appendBytes b s).ft = s.ft := rfl
@[simp] theorem appendBytes_node (b : List Byte) : (appendBytes b s).node = s.node := rfl
@[simp] theorem appendBytes_ct (b : List Byte) : (appendBytes b s).ct = s.ct := rfl
@[simp] theorem appendBytes_dt (b : List Byte) : (appendBytes b s).dt = s.dt := rfl
@[simp] theorem appendBytes_pq (b : List Byte) : (appendBytes b s).pq = s.pq := rfl
@[simp] theorem appendBytes_stack (b : List Byte) : (appendBytes b s).stack = s.stack := rfl
@[simp] theorem appendBytes_remL (b : List Byte) : (appendBytes b s).remL = s.remL := rfl
@[simp] theorem appendBytes_remI (b : List Byte) : (appendBytes b s).remI = s.remI := rfl
@[simp] theorem appendBytes_rem (b : List Byte) : (appendBytes b s).rem = s.rem := rfl
@[simp] theorem appendBytes_pathBuf (b : List Byte) : (appendBytes b s).pathBuf = s.pathBuf := rfl
@[simp] theorem appendBytes_inBytes (b : List Byte) : (appendBytes b s).inBytes = s.inBytes := rfl
@[simp] theorem appendBytes_outBits (b : List Byte) : (appendBytes b s).outBits = s.outBits := rfl
@[simp] theorem appendBytes_inBits (b : List Byte) : (appendBytes b s).inBits = s.inBits := rfl
@[simp] theorem appendBytes_outBytes (b : List Byte) : (appendBytes b s).outBytes = s.outBytes ++ b := rfl
@[simp] theorem appendBytes_ioAnswers (b : List Byte) : (appendBytes b s).ioAnswers = s.ioAnswers := rfl
@[simp] theorem appendBytes_host (b : List Byte) : (appendBytes b s).host = s.host := rfl
@[simp] theorem appendBytes_phase (b : List Byte) : (appendBytes b s).phase = s.phase := rfl
@[simp] theorem appendBytes_draws (b : List Byte) : (appendBytes b s).draws = s.draws := rfl

/-! ### rewind -/

@[simp] theorem rewind_status : (rewind s).status = s.status := by unfold rewind; split <;> rfl
@[simp] theorem rewind_flags : (rewind s).flags = s.flags := by unfold rewind; split <;> rfl
@[simp] theorem rewind_total : (rewind s).total = s.total := by unfold rewind; split <;> rfl
@[simp] theorem rewind_leafCnt : (rewind s).leafCnt = s.leafCnt := by unfold rewind; split <;> rfl
@[simp] theorem rewind_root : (rewind s).root = s.root := by unfold rewind; split <;> rfl
@[simp] theorem rewind_nCount : (rewind s).nCount = s.nCount := by unfold rewind; split <;> rfl
@[simp] theorem rewind_maxDepth : (rewind s).maxDepth = s.maxDepth := by unfold rewind; split <;> rfl
@[simp] theorem rewind_errOffset : (rewind s).errOffset = s.errOffset := by unfold rewind; split <;> rfl
@[simp] theorem rewind_ft : (rewind s).ft = s.ft := by unfold rewind; split <;> rfl
@[simp] theorem rewind_node : (rewind s).node = s.node := by unfold rewind; split <;> rfl
@[simp] theorem rewind_ct : (rewind s).ct = s.ct := by unfold rewind; split <;> rfl
@[simp] theorem rewind_dt : (rewind s).dt = s.dt := by unfold rewind; split <;> rfl
@[simp] theorem rewind_pq : (rewind s).pq = s.pq := by unfold rewind; split <;> rfl
@[simp] theorem rewind_stack : (rewind s).stack = s.stack := by unfold rewind; split <;> rfl
@[simp] theorem rewind_remL : (rewind s).remL = s.remL := by unfold rewind; split <;> rfl
@[simp] theorem rewind_remI : (rewind s).remI = s.remI := by unfold rewind; split <;> rfl
@[simp] theorem rewind_rem : (rewind s).rem = s.rem := by unfold rewind; split <;> rfl
@[simp] theorem rewind_pathBuf : (rewind s).pathBuf = s.pathBuf := by unfold rewind; split <;> rfl
@[simp] theorem rewind_outBits : (rewind s).outBits = s.outBits := by unfold rewind; split <;> rfl
@[simp] theorem rewind_inBits : (rewind s).inBits = s.inBits := by unfold rewind; split <;> rfl
@[simp] theorem rewind_outBytes : (rewind s).outBytes = s.outBytes := by unfold rewind; split <;> rfl
@[simp] theorem rewind_ioAnswers : (rewind s).ioAnswers = s.ioAnswers := by unfold rewind; split <;> rfl
@[simp] theorem rewind_host : (rewind s).host = s.host := by unfold rewind; split <;> rfl
@[simp] theorem rewind_phase : (rewind s).phase = s.phase := by unfold rewind; split <;> rfl
@[simp] theorem rewind_draws : (rewind s).draws = s.draws := by unfold rewind; split <;> rfl
@[simp] theorem rewind_pos : (rewind s).inBytes.pos = 0 := by unfold rewind; split <;> rfl

end Sys2Proof.Machine
end

