-- ==== Sys2Proof/Laws/Tables.lean ====
section
/-! SUPPORT. The table memories: a read after a write of the same key gives the value, a write leaves every other key alone,
and every operation keeps the canonical order. -/

namespace Sys2Proof.Machine

open Sys2Proof

variable {κ α : Type} (rank : κ → Nat)

/-- Every key of the table lies above the place `n`. -/
def Table.above (n : Nat) (t : Table κ α) : Prop := ∀ e ∈ t, n < rank e.1

theorem rising_cons (k : κ) (v : α) (t : Table κ α) :
    Table.rising rank ((k, v) :: t) = true ↔ Table.above rank (rank k) t ∧ Table.rising rank t = true := by
  induction t generalizing k v with
  | nil => simp [Table.rising, Table.above]
  | cons e t ih =>
    obtain ⟨k', v'⟩ := e
    simp only [Table.rising, Bool.and_eq_true, decide_eq_true_eq, ih, Table.above, List.forall_mem_cons]
    constructor
    · rintro ⟨h, ha, hr⟩
      exact ⟨⟨h, fun e he => h.trans (ha e he)⟩, ha, hr⟩
    · rintro ⟨⟨h, _⟩, ha, hr⟩
      exact ⟨h, ha, hr⟩

theorem find_put_same (t : Table κ α) (k : κ) (v : α) : Table.find rank (Table.put rank t k v) k = some v := by
  induction t with
  | nil => simp [Table.put, Table.find]
  | cons e t ih =>
    obtain ⟨k', v'⟩ := e
    simp only [Table.put]
    split
    · simp [Table.find]
    · split
      · simp [Table.find]
      · rename_i h
        simp [Table.find, ih, Ne.symm h]

theorem find_put_other (t : Table κ α) (k k' : κ) (v : α) (h : rank k' ≠ rank k) :
    Table.find rank (Table.put rank t k v) k' = Table.find rank t k' := by
  induction t with
  | nil => simp [Table.put, Table.find, h.symm]
  | cons e t ih =>
    obtain ⟨j, w⟩ := e
    simp only [Table.put]
    split
    · simp [Table.find, h.symm]
    · split
      · rename_i hk
        simp [Table.find, h.symm, ← hk]
      · simp [Table.find, ih]

theorem find_drop_other (t : Table κ α) (k k' : κ) (h : rank k' ≠ rank k) :
    Table.find rank (Table.drop rank t k) k' = Table.find rank t k' := by
  induction t with
  | nil => simp [Table.drop]
  | cons e t ih =>
    obtain ⟨j, w⟩ := e
    simp only [Table.drop]
    split
    · rename_i hj
      simp [Table.find, hj, h.symm]
    · simp [Table.find, ih]

theorem find_above (t : Table κ α) (k : κ) (h : Table.above rank (rank k) t) : Table.find rank t k = none := by
  induction t with
  | nil => rfl
  | cons e t ih =>
    obtain ⟨j, w⟩ := e
    have hj := h (j, w) (by simp)
    simp only [Table.find]
    rw [if_neg (by simp at hj; omega)]
    exact ih fun e he => h e (List.mem_cons_of_mem _ he)

theorem find_drop_same (t : Table κ α) (k : κ) (h : Table.rising rank t = true) :
    Table.find rank (Table.drop rank t k) k = none := by
  induction t with
  | nil => rfl
  | cons e t ih =>
    obtain ⟨j, w⟩ := e
    obtain ⟨ha, hr⟩ := (rising_cons rank j w t).1 h
    simp only [Table.drop]
    split
    · rename_i hj
      exact find_above rank t k (hj ▸ ha)
    · rename_i hj
      simp [Table.find, hj, ih hr]

/-- The entries after a write: the new one, and old ones. -/
theorem mem_put {t : Table κ α} {k : κ} {v : α} {e : κ × α} (h : e ∈ Table.put rank t k v) : e = (k, v) ∨ e ∈ t := by
  induction t with
  | nil => simpa [Table.put] using h
  | cons d t ih =>
    obtain ⟨j, w⟩ := d
    simp only [Table.put] at h
    split at h
    · simpa using h
    · split at h
      · simp only [List.mem_cons] at h ⊢
        tauto
      · simp only [List.mem_cons] at h ⊢
        rcases h with h | h
        · exact .inr (.inl h)
        · exact (ih h).imp_right .inr

theorem mem_drop {t : Table κ α} {k : κ} {e : κ × α} (h : e ∈ Table.drop rank t k) : e ∈ t := by
  induction t with
  | nil => simp [Table.drop] at h
  | cons d t ih =>
    obtain ⟨j, w⟩ := d
    simp only [Table.drop] at h
    split at h
    · exact List.mem_cons_of_mem _ h
    · simp only [List.mem_cons] at h ⊢
      exact h.imp_right ih

theorem rising_put (t : Table κ α) (k : κ) (v : α) (h : Table.rising rank t = true) :
    Table.rising rank (Table.put rank t k v) = true := by
  induction t with
  | nil => simp [Table.put, Table.rising]
  | cons e t ih =>
    obtain ⟨j, w⟩ := e
    obtain ⟨ha, hr⟩ := (rising_cons rank j w t).1 h
    simp only [Table.put]
    split
    · rename_i hk
      refine (rising_cons rank k v _).2 ⟨?_, h⟩
      intro e he
      rcases List.mem_cons.1 he with rfl | he
      · exact hk
      · exact hk.trans (ha e he)
    · split
      · rename_i hk
        exact (rising_cons rank k v t).2 ⟨hk ▸ ha, hr⟩
      · refine (rising_cons rank j w _).2 ⟨?_, ih hr⟩
        intro e he
        rcases mem_put rank he with rfl | he
        · simp only; omega
        · exact ha e he

theorem rising_drop (t : Table κ α) (k : κ) (h : Table.rising rank t = true) :
    Table.rising rank (Table.drop rank t k) = true := by
  induction t with
  | nil => rfl
  | cons e t ih =>
    obtain ⟨j, w⟩ := e
    obtain ⟨ha, hr⟩ := (rising_cons rank j w t).1 h
    simp only [Table.drop]
    split
    · exact hr
    · exact (rising_cons rank j w _).2 ⟨fun e he => ha e (mem_drop rank he), ih hr⟩

/-! ### Distinct keys have distinct places -/

theorem symRank_inj {a b : Symbol} : symRank a = symRank b ↔ a = b := BitVec.toNat_inj

theorem idxRank_inj {a b : NodeIdx} : idxRank a = idxRank b ↔ a = b := BitVec.toNat_inj

theorem pathRank_snoc (p : Bits) (b : Bool) : pathRank (p ++ [b]) = 2 * pathRank p + b.toNat := by
  simp [pathRank, List.foldl_append]

theorem pathRank_pos (p : Bits) : 1 ≤ pathRank p := by
  induction p using List.reverseRecOn with
  | nil => simp [pathRank]
  | append_singleton p b ih => rw [pathRank_snoc]; omega

theorem pathRank_inj {p q : Bits} : pathRank p = pathRank q ↔ p = q := by
  refine ⟨fun h => ?_, fun h => h ▸ rfl⟩
  induction p using List.reverseRecOn generalizing q with
  | nil =>
    induction q using List.reverseRecOn with
    | nil => rfl
    | append_singleton q c _ =>
      have hq := pathRank_pos q
      rw [pathRank_snoc] at h
      have h1 : pathRank ([] : Bits) = 1 := rfl
      omega
  | append_singleton p b ih =>
    induction q using List.reverseRecOn with
    | nil =>
      have hp := pathRank_pos p
      rw [pathRank_snoc] at h
      have h1 : pathRank ([] : Bits) = 1 := rfl
      omega
    | append_singleton q c _ =>
      rw [pathRank_snoc, pathRank_snoc] at h
      have hb : b = c := by cases b <;> cases c <;> simp_all <;> omega
      subst hb
      rw [ih (by omega : pathRank p = pathRank q)]

end Sys2Proof.Machine
end

