-- ==== Sys2Proof/Laws/Memory.lean ====
section
/-! SUPPORT. Reads after writes of FT, CT, DT and NODE, and: every memory operation keeps the canonical form, which the
state after reset has. -/

namespace Sys2Proof.Machine

open Sys2Proof

/-! ### Reads after writes -/

theorem readFt_writeFt_same (s : State) (sym : Symbol) (n : Word32) (h : Table.rising symRank s.ft = true) :
    readFt (writeFt sym n s) sym = n := by
  simp only [readFt, writeFt_ft]
  split
  · rename_i h0
    simp [find_drop_same symRank s.ft sym h, h0]
  · simp [find_put_same]

theorem readFt_writeFt_other (s : State) {sym sym' : Symbol} (n : Word32) (h : sym' ≠ sym) :
    readFt (writeFt sym n s) sym' = readFt s sym' := by
  have hr : symRank sym' ≠ symRank sym := fun e => h (symRank_inj.1 e)
  simp only [readFt, writeFt_ft]
  split
  · rw [find_drop_other symRank s.ft sym sym' hr]
  · rw [find_put_other symRank s.ft sym sym' n hr]

@[simp] theorem readCt_writeCt_same (s : State) (sym : Symbol) (p : Bits) :
    readCt (writeCt sym p s) sym = some p := find_put_same symRank s.ct sym p

theorem readCt_writeCt_other (s : State) {sym sym' : Symbol} (p : Bits) (h : sym' ≠ sym) :
    readCt (writeCt sym p s) sym' = readCt s sym' :=
  find_put_other symRank s.ct sym sym' p fun e => h (symRank_inj.1 e)

@[simp] theorem readDt_writeDt_same (s : State) (p : Bits) (sym : Symbol) :
    readDt (writeDt p sym s) p = some sym := find_put_same pathRank s.dt p sym

theorem readDt_writeDt_other (s : State) {p p' : Bits} (sym : Symbol) (h : p' ≠ p) :
    readDt (writeDt p sym s) p' = readDt s p' :=
  find_put_other pathRank s.dt p p' sym fun e => h (pathRank_inj.1 e)

/-- The index of the next node is NCOUNT itself. -/
theorem nextIdx_toNat (n : BitVec 18) (h : n.toNat < Config.maxNodes) : (n.setWidth 17).toNat = n.toNat := by
  simp only [Config.maxNodes] at h
  simp only [BitVec.toNat_setWidth]
  exact Nat.mod_eq_of_lt (by omega)

/-- Creating a node: the new entry reads back, every other entry stays, NCOUNT goes up by one, nothing else changes; or
the store is full. -/
theorem allocNode_cases (n : Node) (s : State) :
    (s.nCount.toNat < Config.maxNodes ∧ ∃ t, allocNode n s = .ok (s.nCount.setWidth 17) t ∧
      readNode t (s.nCount.setWidth 17) = n ∧ (∀ j, j ≠ s.nCount.setWidth 17 → readNode t j = readNode s j) ∧
      t = { s with node := Table.put idxRank s.node (s.nCount.setWidth 17) n, nCount := s.nCount + 1#18 }) ∨
    (Config.maxNodes ≤ s.nCount.toNat ∧ allocNode n s = .stop .nodeStoreFull) := by
  by_cases h : s.nCount.toNat < Config.maxNodes
  · refine .inl ⟨h, _, by rw [allocNode, if_pos h], ?_, fun j hj => ?_, rfl⟩
    · simp [readNode, find_put_same]
    · simp only [readNode]
      rw [find_put_other idxRank s.node _ j n fun e => hj (idxRank_inj.1 e)]
  · exact .inr ⟨by omega, by rw [allocNode, if_neg h]⟩

/-! ### The canonical form -/

theorem memory_wf_iff (s : State) :
    Memory.wf s = true ↔
      Table.rising symRank s.ft = true ∧ (∀ e ∈ s.ft, e.2 ≠ 0#32) ∧ Table.rising idxRank s.node = true ∧
        Table.rising symRank s.ct = true ∧ Table.rising pathRank s.dt = true := by
  simp [Memory.wf, and_assoc]

theorem reset_memory_wf : Memory.wf State.reset = true := rfl

theorem clearCore_memory_wf (s : State) : Memory.wf (clearCore s) = true := rfl

/-- The canonical form is about the four tables alone. -/
theorem memory_wf_congr {s t : State} (hf : t.ft = s.ft) (hn : t.node = s.node) (hc : t.ct = s.ct) (hd : t.dt = s.dt) :
    Memory.wf t = Memory.wf s := by
  simp [Memory.wf, hf, hn, hc, hd]

theorem dropNodes_memory_wf {s : State} (h : Memory.wf s = true) : Memory.wf (dropNodes s) = true := by
  rw [memory_wf_iff] at h ⊢
  exact ⟨h.1, h.2.1, rfl, h.2.2.2⟩

theorem writeFt_memory_wf {s : State} (sym : Symbol) (n : Word32) (h : Memory.wf s = true) :
    Memory.wf (writeFt sym n s) = true := by
  rw [memory_wf_iff] at h ⊢
  obtain ⟨hf, h0, hrest⟩ := h
  refine ⟨?_, ?_, hrest⟩
  · rw [writeFt_ft]
    split
    · exact rising_drop symRank s.ft sym hf
    · exact rising_put symRank s.ft sym n hf
  · intro e he
    rw [writeFt_ft] at he
    split at he
    · exact h0 e (mem_drop symRank he)
    · rename_i hn
      rcases mem_put symRank he with rfl | he
      · exact hn
      · exact h0 e he

theorem writeCt_memory_wf {s : State} (sym : Symbol) (p : Bits) (h : Memory.wf s = true) :
    Memory.wf (writeCt sym p s) = true := by
  rw [memory_wf_iff] at h ⊢
  obtain ⟨hf, h0, hn, hc, hd⟩ := h
  exact ⟨hf, h0, hn, rising_put symRank s.ct sym p hc, hd⟩

theorem writeDt_memory_wf {s : State} (p : Bits) (sym : Symbol) (h : Memory.wf s = true) :
    Memory.wf (writeDt p sym s) = true := by
  rw [memory_wf_iff] at h ⊢
  obtain ⟨hf, h0, hn, hc, hd⟩ := h
  exact ⟨hf, h0, hn, hc, rising_put pathRank s.dt p sym hd⟩

theorem allocNode_memory_wf {n : Node} {s t : State} {i : NodeIdx} (h : Memory.wf s = true)
    (ha : allocNode n s = .ok i t) : Memory.wf t = true := by
  rcases allocNode_cases n s with ⟨_, u, hu, _, _, rfl⟩ | ⟨_, hstop⟩
  · rw [hu] at ha
    obtain ⟨-, rfl⟩ := Flow.ok.inj ha
    rw [memory_wf_iff] at h ⊢
    obtain ⟨hf, h0, hn, hc, hd⟩ := h
    exact ⟨hf, h0, rising_put idxRank s.node _ n hn, hc, hd⟩
  · rw [hstop] at ha
    cases ha

end Sys2Proof.Machine
end

