-- ==== Sys2Proof/Laws/PerInstr.lean ====
section
/-! SUPPORT. Per-instruction laws. Family `Sys2Proof.Laws.TableRow`: the encoding of every instruction lies in its own row of
spec/opcode_table.json (format, width, match and mask), and is a well-formed code. -/

namespace Sys2Proof.Laws.TableRow

open Sys2Proof

/-- A command word in the row with this match and mask (30_encoding.md R62: `w & mask = match`). -/
def commandRow (pattern mask : CmdWord) (c : Code) : Prop :=
  ∃ w, c = .command w ∧ w &&& mask = pattern ∧ commandWellFormed w = true

/-- A token of this many bits with this flag (R65, R66). -/
def tokenRow (width : Nat) (flag : Bool) (c : Code) : Prop :=
  ∃ bits, c = .token bits ∧ bits.length = width ∧ bits.head? = some flag ∧ tokenWellFormed bits = true

/-- The encoding of the instruction lies in its row of the opcode table. -/
def Statement (i : Instr) : Prop :=
  match i with
  | .clear => commandRow 0x0000000000000000#64 0xFFFFFFFFFFFFFFFF#64 (encode i)
  | .ftWrite _ _ => commandRow 0x1000000000000000#64 0xF000000000000FFF#64 (encode i)
  | .analyze => commandRow 0x2000000000000000#64 0xFFFFFFFFFFFFFFFF#64 (encode i)
  | .build => commandRow 0x3000000000000000#64 0xFFFFFFFFFFFFFFFF#64 (encode i)
  | .dictEnc => commandRow 0x4000000000000000#64 0xFFFFFFFFFFFFFFFF#64 (encode i)
  | .hdrWr => commandRow 0x5000000000000000#64 0xFFFFFFFFFFFFFFFF#64 (encode i)
  | .treeWr => commandRow 0x6000000000000000#64 0xFFFFFFFFFFFFFFFF#64 (encode i)
  | .encBody => commandRow 0x7000000000000000#64 0xFFFFFFFFFFFFFFFF#64 (encode i)
  | .compress => commandRow 0x8000000000000000#64 0xFFFFFFFFFFFFFFFF#64 (encode i)
  | .hdrRd => commandRow 0x9000000000000000#64 0xFFFFFFFFFFFFFFFF#64 (encode i)
  | .treeRd => commandRow 0xA000000000000000#64 0xFFFFFFFFFFFFFFFF#64 (encode i)
  | .dictDec => commandRow 0xB000000000000000#64 0xFFFFFFFFFFFFFFFF#64 (encode i)
  | .decBody => commandRow 0xC000000000000000#64 0xFFFFFFFFFFFFFFFF#64 (encode i)
  | .decompress => commandRow 0xD000000000000000#64 0xFFFFFFFFFFFFFFFF#64 (encode i)
  | .tLeaf _ => tokenRow 17 true (encode i)
  | .tMerge => tokenRow 1 false (encode i)

theorem clear : Statement .clear := ⟨_, rfl, by decide, by decide⟩

theorem ftWrite (sym : Symbol) (count : Word32) : Statement (.ftWrite sym count) :=
  ⟨_, rfl, masked_ftWriteWord sym count, by simp [commandWellFormed, opField_ftWriteWord, reservedField_ftWriteWord]⟩

theorem analyze : Statement .analyze := ⟨_, rfl, by decide, by decide⟩

theorem build : Statement .build := ⟨_, rfl, by decide, by decide⟩

theorem dictEnc : Statement .dictEnc := ⟨_, rfl, by decide, by decide⟩

theorem hdrWr : Statement .hdrWr := ⟨_, rfl, by decide, by decide⟩

theorem treeWr : Statement .treeWr := ⟨_, rfl, by decide, by decide⟩

theorem encBody : Statement .encBody := ⟨_, rfl, by decide, by decide⟩

theorem compress : Statement .compress := ⟨_, rfl, by decide, by decide⟩

theorem hdrRd : Statement .hdrRd := ⟨_, rfl, by decide, by decide⟩

theorem treeRd : Statement .treeRd := ⟨_, rfl, by decide, by decide⟩

theorem dictDec : Statement .dictDec := ⟨_, rfl, by decide, by decide⟩

theorem decBody : Statement .decBody := ⟨_, rfl, by decide, by decide⟩

theorem decompress : Statement .decompress := ⟨_, rfl, by decide, by decide⟩

theorem tLeaf (sym : Symbol) : Statement (.tLeaf sym) :=
  ⟨_, rfl, by simp [encodeToken], rfl, by simp [tokenWellFormed, encodeToken, payloadWidth]⟩

theorem tMerge : Statement .tMerge := ⟨_, rfl, rfl, rfl, rfl⟩

end Sys2Proof.Laws.TableRow
end

