-- ==== Sys2Proof/Laws/Streams.lean ====
section
/-! SUPPORT. What a stream call can do, one lemma per primitive (spec/20_memory.md R43 to R47): the ways it ends, whatever
the collaborators answer, and its result when no call faults. -/

namespace Sys2Proof.Machine

open Sys2Proof

theorem setIo_self (s : State) : setIo s.ioAnswers s = s := rfl

@[simp] theorem appendBits_nil (s : State) : appendBits [] s = s := by simp [appendBits]

@[simp] theorem appendBits_appendBits (a b : Bits) (s : State) :
    appendBits b (appendBits a s) = appendBits (a ++ b) s := by simp [appendBits]

@[simp] theorem appendBytes_nil (s : State) : appendBytes [] s = s := by simp [appendBytes]

@[simp] theorem appendBytes_appendBytes (a b : List Byte) (s : State) :
    appendBytes b (appendBytes a s) = appendBytes (a ++ b) s := by simp [appendBytes]

@[simp] theorem setIo_setIo (a b : List Bool) (s : State) : setIo b (setIo a s) = setIo b s := rfl

@[simp] theorem setIo_appendBits (a : List Bool) (b : Bits) (s : State) :
    setIo a (appendBits b s) = appendBits b (setIo a s) := rfl

@[simp] theorem setIo_appendBytes (a : List Bool) (b : List Byte) (s : State) :
    setIo a (appendBytes b s) = appendBytes b (setIo a s) := rfl

@[simp] theorem setIo_seekBits (a : List Bool) (n : Nat) (s : State) :
    setIo a (seekBits n s) = seekBits n (setIo a s) := rfl

@[simp] theorem setIo_seekBytes (a : List Bool) (n : Nat) (s : State) :
    setIo a (seekBytes n s) = seekBytes n (setIo a s) := rfl

@[simp] theorem seekBits_seekBits (m n : Nat) (s : State) : seekBits n (seekBits m s) = seekBits n s := rfl

@[simp] theorem seekBytes_seekBytes (m n : Nat) (s : State) : seekBytes n (seekBytes m s) = seekBytes n s := rfl

/-- One call: it goes on, with an answer fewer or none left, or raises IoError. -/
theorem ioCall_cases (g : Opcode) (s : State) :
    (∃ ans, ioCall g s = .ok () (setIo ans s)) ∨ (∃ ans, ioCall g s = .ended (raise .ioError g (setIo ans s))) := by
  rcases h : s.ioAnswers with _ | ⟨a, rest⟩
  · exact .inl ⟨s.ioAnswers, by rw [setIo_self]; simp [ioCall, askIo, h]⟩
  · cases a
    · exact .inl ⟨rest, by simp [ioCall, askIo, h]⟩
    · exact .inr ⟨rest, by simp [ioCall, askIo, h]⟩

/-- A call that faults has no effect but the fault's (60_exceptions.md R161). -/
theorem ioCall_fault {g : Opcode} {s : State} {rest : List Bool} (h : s.ioAnswers = true :: rest) :
    ioCall g s = .ended (raise .ioError g (setIo rest s)) := by
  simp [ioCall, askIo, h]

/-- A call on quiet streams goes on, with one answer fewer. -/
theorem ioCall_quiet {g : Opcode} {s : State} (h : s.quiet) : ioCall g s = .ok () (setIo (s.ioAnswers.drop 1) s) := by
  rcases h0 : s.ioAnswers with _ | ⟨a, rest⟩
  · simp [ioCall, askIo, h0, setIo]
    rw [← h0]
  · have ha : a = false := h a (h0 ▸ List.mem_cons_self)
    simp [ioCall, askIo, h0, ha]

/-- Dropping answers keeps the streams quiet. -/
theorem quiet_setIo_drop {s : State} (h : s.quiet) (n : Nat) (t : State) : (setIo (s.ioAnswers.drop n) t).quiet :=
  fun a ha => h a (List.mem_of_mem_drop ha)

/-- `RdByte()` on quiet streams: the next byte, or EOS at the end. -/
theorem rdByte_quiet {g : Opcode} {s : State} (h : s.quiet) :
    rdByte g s =
      (match s.inBytes.bytes[s.inBytes.pos]? with
      | none => .ok none (setIo (s.ioAnswers.drop 1) s)
      | some b => .ok (some b) (seekBytes (s.inBytes.pos + 1) (setIo (s.ioAnswers.drop 1) s))) := by
  unfold rdByte
  exact (congrArg (fun m => Flow.bind m _) (ioCall_quiet h)).trans rfl

/-- `RdByte()`, whatever the collaborator answers: a byte is consumed, or EOS consumes none, or IoError. Only IN_BYTES'
position and the answers move. -/
theorem rdByte_cases (g : Opcode) (s : State) :
    (∃ b ans, rdByte g s = .ok (some b) (seekBytes (s.inBytes.pos + 1) (setIo ans s)) ∧
      s.inBytes.bytes[s.inBytes.pos]? = some b) ∨
    (∃ ans, rdByte g s = .ok none (setIo ans s) ∧ s.inBytes.bytes.length ≤ s.inBytes.pos) ∨
    (∃ ans, rdByte g s = .ended (raise .ioError g (setIo ans s))) := by
  rcases ioCall_cases g s with ⟨ans, e⟩ | ⟨ans, e⟩
  · rcases hb : s.inBytes.bytes[s.inBytes.pos]? with _ | b
    · exact .inr (.inl ⟨ans, by simp [rdByte, e, hb], List.getElem?_eq_none_iff.1 hb⟩)
    · exact .inl ⟨b, ans, by simp [rdByte, e, hb], rfl⟩
  · exact .inr (.inr ⟨ans, by simp [rdByte, e]⟩)

/-- `RdBits(n)`, whatever the collaborator answers: n bits are consumed, or CorruptStreamError with none consumed, or
IoError. Only IN_BITS' position and the answers move. -/
theorem rdBits_cases (g : Opcode) (n : Nat) (s : State) :
    (∃ ans, rdBits g n s =
        .ok (BitVec.ofNat n (bitsValue (s.bitsAhead.take n))) (seekBits (s.inBits.pos + n) (setIo ans s)) ∧
      s.inBits.pos + n ≤ s.inBits.bits.length) ∨
    (∃ ans, rdBits g n s = .ended (raise .corruptStream g (setIo ans s)) ∧
      s.inBits.bits.length < s.inBits.pos + n) ∨
    (∃ ans, rdBits g n s = .ended (raise .ioError g (setIo ans s))) := by
  rcases ioCall_cases g s with ⟨ans, e⟩ | ⟨ans, e⟩
  · by_cases hl : s.inBits.bits.length < s.inBits.pos + n
    · exact .inr (.inl ⟨ans, by simp [rdBits, e, hl], hl⟩)
    · exact .inl ⟨ans, by simp [rdBits, e, hl, State.bitsAhead], by omega⟩
  · exact .inr (.inr ⟨ans, by simp [rdBits, e]⟩)

/-- `RdBits(n)` on quiet streams with a field ahead reads that field. -/
theorem rdBits_field {g : Opcode} {n : Nat} {s : State} {v : BitVec n} {rest : Bits} (h : s.quiet) (hn : 0 < n)
    (hb : s.bitsAhead = fieldBits v ++ rest) :
    rdBits g n s = .ok v (seekBits (s.inBits.pos + n) (setIo (s.ioAnswers.drop 1) s)) := by
  have hb' : s.inBits.bits.drop s.inBits.pos = fieldBits v ++ rest := hb
  have hl : ¬ s.inBits.bits.length < s.inBits.pos + n := by
    have := congrArg List.length hb'
    simp at this
    omega
  have ht : (s.inBits.bits.drop s.inBits.pos).take n = fieldBits v := by
    rw [hb', List.take_left' (length_fieldBits v)]
  simp [rdBits, ioCall_quiet h, hl, ht]

/-- `RdBits(n)` on quiet streams with fewer than n bits ahead. -/
theorem rdBits_short {g : Opcode} {n : Nat} {s : State} (h : s.quiet) (hl : s.bitsAhead.length < n) :
    rdBits g n s = .ended (raise .corruptStream g (setIo (s.ioAnswers.drop 1) s)) := by
  have hl' : s.inBits.bits.length < s.inBits.pos + n := by
    simp [State.bitsAhead] at hl
    omega
  simp [rdBits, ioCall_quiet h, hl']

/-- The bits ahead after a read of some of them. -/
theorem bitsAhead_seekBits {s : State} {a rest : Bits} (h : s.bitsAhead = a ++ rest) (t : State)
    (ht : t.inBits = s.inBits) : (seekBits (s.inBits.pos + a.length) t).bitsAhead = rest := by
  have h' : s.inBits.bits.drop s.inBits.pos = a ++ rest := h
  simp only [State.bitsAhead, seekBits_inBits, ht]
  rw [← List.drop_drop, h', List.drop_left]

/-- `WrBits(n, v)`, whatever the collaborator answers: n bits are appended, or IoError. -/
theorem wrBits_cases (g : Opcode) {n : Nat} (v : BitVec n) (s : State) :
    (∃ ans, wrBits g v s = .ok () (appendBits (fieldBits v) (setIo ans s))) ∨
    (∃ ans, wrBits g v s = .ended (raise .ioError g (setIo ans s))) := by
  rcases ioCall_cases g s with ⟨ans, e⟩ | ⟨ans, e⟩
  · exact .inl ⟨ans, by simp [wrBits, e]⟩
  · exact .inr ⟨ans, by simp [wrBits, e]⟩

theorem wrBits_quiet {g : Opcode} {n : Nat} {v : BitVec n} {s : State} (h : s.quiet) :
    wrBits g v s = .ok () (appendBits (fieldBits v) (setIo (s.ioAnswers.drop 1) s)) := by
  simp [wrBits, ioCall_quiet h]

@[simp] theorem fieldBits_ofBool (b : Bool) : fieldBits (BitVec.ofBool b) = [b] := by cases b <;> rfl

/-- `WrPath(p)` on quiet streams appends p, one call a bit. -/
theorem wrPath_quiet {g : Opcode} (p : Bits) {s : State} (h : s.quiet) :
    wrPath g p s = .ok () (appendBits p (setIo (s.ioAnswers.drop p.length) s)) := by
  induction p generalizing s with
  | nil => simp [wrPath, setIo_self]
  | cons b p ih =>
    have hq : (appendBits [b] (setIo (s.ioAnswers.drop 1) s)).quiet := quiet_setIo_drop h 1 s
    simp only [wrPath, wrBits_quiet h, bind_ok, fieldBits_ofBool, ih hq]
    simp

/-- `WrPath(p)`, whatever the collaborator answers: a prefix of p is appended, all of it unless IoError ends the command. -/
theorem wrPath_cases (g : Opcode) (p : Bits) (s : State) :
    (∃ ans, wrPath g p s = .ok () (appendBits p (setIo ans s))) ∨
    (∃ ans q, q <+: p ∧ wrPath g p s = .ended (raise .ioError g (appendBits q (setIo ans s)))) := by
  induction p generalizing s with
  | nil => exact .inl ⟨s.ioAnswers, by simp [wrPath, setIo_self]⟩
  | cons b p ih =>
    rcases wrBits_cases g (BitVec.ofBool b) s with ⟨ans, e⟩ | ⟨ans, e⟩
    · rcases ih (appendBits [b] (setIo ans s)) with ⟨ans', e'⟩ | ⟨ans', q, hq, e'⟩
      · exact .inl ⟨ans', by simp [wrPath, e, e']⟩
      · exact .inr ⟨ans', b :: q, by simpa using hq, by simp [wrPath, e, e']⟩
    · exact .inr ⟨ans, [], List.nil_prefix, by simp [wrPath, e]⟩

/-- `Close()`, whatever the collaborator answers. -/
theorem closeOut_cases (g : Opcode) (s : State) :
    (∃ ans, closeOut g s = .ok () (padOut (setIo ans s))) ∨
    (∃ ans, closeOut g s = .ended (raise .ioError g (setIo ans s))) := by
  rcases ioCall_cases g s with ⟨ans, e⟩ | ⟨ans, e⟩
  · exact .inl ⟨ans, by simp [closeOut, e]⟩
  · exact .inr ⟨ans, by simp [closeOut, e]⟩

/-- After `Close()` OUT_BITS is a whole number of bytes long (20_memory.md R44). -/
theorem padOut_length (s : State) : (padOut s).outBits.length % 8 = 0 := by
  simp [padding]
  omega

/-- `WrByte(b)`, whatever the collaborator answers. -/
theorem wrByte_cases (g : Opcode) (b : Byte) (s : State) :
    (∃ ans, wrByte g b s = .ok () (appendBytes [b] (setIo ans s))) ∨
    (∃ ans, wrByte g b s = .ended (raise .ioError g (setIo ans s))) := by
  rcases ioCall_cases g s with ⟨ans, e⟩ | ⟨ans, e⟩
  · exact .inl ⟨ans, by simp [wrByte, e]⟩
  · exact .inr ⟨ans, by simp [wrByte, e]⟩

theorem wrByte_quiet {g : Opcode} {b : Byte} {s : State} (h : s.quiet) :
    wrByte g b s = .ok () (appendBytes [b] (setIo (s.ioAnswers.drop 1) s)) := by
  simp [wrByte, ioCall_quiet h]

end Sys2Proof.Machine
end

