-- ==== Sys2Proof/Laws/Trees.lean ====
section
/-! SUPPORT. The trees of spec/10_state.md R21 apart from a node store, and what the walks of DICT_ENC, DICT_DEC and TREE_WR
find where a tree stands in a node store. -/

namespace Sys2Proof.Machine

open Sys2Proof

/-- The levels a walk of the tree needs. -/
def CodeTree.levels : CodeTree → Nat
  | .leaf _ => 1
  | .node l r => max l.levels r.levels + 1

theorem CodeTree.leaves_pos (T : CodeTree) : 1 ≤ T.leaves := by
  cases T with
  | leaf => simp [CodeTree.leaves]
  | node l r => simp only [CodeTree.leaves]; have := l.leaves_pos; omega

/-- A strict binary tree with L leaves has depth at most L - 1 (00_scope.md R5). -/
theorem CodeTree.levels_le_leaves (T : CodeTree) : T.levels ≤ T.leaves := by
  induction T with
  | leaf => simp [CodeTree.levels, CodeTree.leaves]
  | node l r hl hr =>
    have := l.leaves_pos
    have := r.leaves_pos
    simp only [CodeTree.levels, CodeTree.leaves]
    omega

theorem CodeTree.length_syms (T : CodeTree) : T.syms.length = T.leaves := by
  induction T with
  | leaf => rfl
  | node l r hl hr => simp [CodeTree.syms, CodeTree.leaves, hl, hr]

theorem CodeTree.length_paths (T : CodeTree) : T.paths.length = T.leaves := by
  induction T with
  | leaf => rfl
  | node l r hl hr => simp [CodeTree.paths, CodeTree.leaves, hl, hr]

theorem CodeTree.length_codes (T : CodeTree) : T.codes.length = T.leaves := by
  cases T with
  | leaf => rfl
  | node l r => exact CodeTree.length_paths _

/-- The symbols of the code words are the leaves', left to right. -/
theorem CodeTree.map_fst_codes (T : CodeTree) : T.codes.map (fun e => e.1) = T.syms := by
  have h : ∀ T : CodeTree, T.paths.map (fun e => e.1) = T.syms := by
    intro T
    induction T with
    | leaf => rfl
    | node l r hl hr =>
      simp only [CodeTree.paths, CodeTree.syms, List.map_append, List.map_map, ← hl, ← hr]
      rfl
  cases T with
  | leaf => rfl
  | node l r => exact h _

/-- No path is longer than the tree is deep. -/
theorem CodeTree.length_path_lt (T : CodeTree) : ∀ e ∈ T.paths, e.2.length < T.levels := by
  induction T with
  | leaf sym => simp [CodeTree.paths, CodeTree.levels]
  | node l r hl hr =>
    intro e he
    simp only [CodeTree.paths, List.mem_append, List.mem_map] at he
    simp only [CodeTree.levels]
    rcases he with ⟨d, hd, rfl⟩ | ⟨d, hd, rfl⟩
    · have := hl d hd
      simp only [List.length_cons]
      omega
    · have := hr d hd
      simp only [List.length_cons]
      omega

theorem CodeTree.standsAt_leaf {s : State} {sym : Symbol} {i : NodeIdx} :
    (CodeTree.leaf sym).standsAt s i = true ↔ ∃ w, readNode s i = .leaf sym w := by
  simp only [CodeTree.standsAt]
  cases h : readNode s i <;> simp

theorem CodeTree.standsAt_node {s : State} {l r : CodeTree} {i : NodeIdx} :
    (CodeTree.node l r).standsAt s i = true ↔
      ∃ w a b, readNode s i = .internal w a b ∧ l.standsAt s a = true ∧ r.standsAt s b = true := by
  simp only [CodeTree.standsAt]
  cases h : readNode s i <;> simp

/-- Standing in a node store depends on its entries alone. -/
theorem CodeTree.standsAt_congr {s t : State} (h : ∀ i, readNode t i = readNode s i) (T : CodeTree) (i : NodeIdx) :
    T.standsAt t i = T.standsAt s i := by
  induction T generalizing i with
  | leaf sym => simp only [CodeTree.standsAt, h]
  | node l r hl hr => simp only [CodeTree.standsAt, h, hl, hr]

/-- The walk of 42_dictionary_codec.md R105 finds the tree's paths, each after the path to its root. -/
theorem walk_of_standsAt {s : State} (T : CodeTree) {n : Nat} {i : NodeIdx} (p : Bits) (h : T.standsAt s i = true)
    (hn : T.levels ≤ n) : walk s n i p = some (T.paths.map fun e => (e.1, p ++ e.2)) := by
  induction T generalizing n i p with
  | leaf sym =>
    obtain ⟨w, hw⟩ := CodeTree.standsAt_leaf.1 h
    obtain ⟨m, rfl⟩ : ∃ m, n = m + 1 := ⟨n - 1, by simp [CodeTree.levels] at hn; omega⟩
    simp [walk, hw, CodeTree.paths]
  | node l r hl hr =>
    obtain ⟨w, a, b, hw, ha, hb⟩ := CodeTree.standsAt_node.1 h
    simp only [CodeTree.levels] at hn
    obtain ⟨m, rfl⟩ : ∃ m, n = m + 1 := ⟨n - 1, by omega⟩
    have h0 := hl (n := m) (p ++ [false]) ha (by omega)
    have h1 := hr (n := m) (p ++ [true]) hb (by omega)
    simp [walk, hw, h0, h1, CodeTree.paths, Function.comp_def]

/-- The walk of 43_tree_serializer.md R117 finds the tree's tokens. -/
theorem serialize_of_standsAt {s : State} (T : CodeTree) {n : Nat} {i : NodeIdx} (h : T.standsAt s i = true)
    (hn : T.levels ≤ n) : serialize s n i = some T.tokens := by
  induction T generalizing n i with
  | leaf sym =>
    obtain ⟨w, hw⟩ := CodeTree.standsAt_leaf.1 h
    obtain ⟨m, rfl⟩ : ∃ m, n = m + 1 := ⟨n - 1, by simp [CodeTree.levels] at hn; omega⟩
    simp [serialize, hw, CodeTree.tokens]
  | node l r hl hr =>
    obtain ⟨w, a, b, hw, ha, hb⟩ := CodeTree.standsAt_node.1 h
    simp only [CodeTree.levels] at hn
    obtain ⟨m, rfl⟩ : ∃ m, n = m + 1 := ⟨n - 1, by omega⟩
    have h0 := hl (n := m) ha (by omega)
    have h1 := hr (n := m) hb (by omega)
    simp [serialize, hw, h0, h1, CodeTree.tokens]

/-- The dictionaries' pairs are the code words of the state's tree. -/
theorem treePaths_of_hasTree {s : State} {T : CodeTree} (h : s.hasTree T = true) (hn : T.leaves ≤ Config.walkDepth) :
    treePaths s = some T.codes := by
  unfold State.hasTree at h
  split at h
  · exact absurd h (by decide)
  · rename_i r hr
    cases T with
    | leaf sym =>
      obtain ⟨w, hw⟩ := CodeTree.standsAt_leaf.1 h
      simp [treePaths, hr, hw, CodeTree.codes]
    | node a b =>
      obtain ⟨w, i, j, hw, _, _⟩ := CodeTree.standsAt_node.1 h
      have hwalk := walk_of_standsAt (CodeTree.node a b) (n := Config.walkDepth) [] h
        ((CodeTree.levels_le_leaves _).trans hn)
      simp [treePaths, hr, hw, hwalk, CodeTree.codes]

/-- The tokens TREE_WR writes are those of the state's tree. -/
theorem treeTokens_of_hasTree {s : State} {T : CodeTree} (h : s.hasTree T = true) (hn : T.leaves ≤ Config.walkDepth) :
    treeTokens s = some T.tokens := by
  unfold State.hasTree at h
  split at h
  · exact absurd h (by decide)
  · rename_i r hr
    simp [treeTokens, hr, serialize_of_standsAt T h ((CodeTree.levels_le_leaves T).trans hn)]

end Sys2Proof.Machine
end

