-- ==== Sys2Proof/Tests/Slice0.lean ====
section
/-! SUPPORT. The model's own tests. Expected values are those of spec/95_test_vectors.md (each test names the vector) or the
encodings of spec/30_encoding.md written out bit by bit; and for each obligation with hypotheses a concrete input that meets
them. -/

namespace Sys2Proof.Tests

open Sys2Proof Sys2Proof.Machine Host

-- Kernel evaluations run one after the other, so that they do not all wait at once.
set_option Elab.async false

/-! ### Helpers -/

/-- Whether an outcome is a next state. -/
def isNext (o : Outcome State Fault Refusal) : Bool :=
  match o with
  | .next _ => true
  | .fault _ => false
  | .refused _ => false

/-- The next state of an outcome, reset where it has none. -/
def nextOf (o : Outcome State Fault Refusal) : State :=
  match o with
  | .next s => s
  | .fault _ => State.reset
  | .refused _ => State.reset

/-- A view of the next state, none where there is no next state. -/
def seen {α : Type} (f : State → α) (o : Outcome State Fault Refusal) : Option α :=
  match o with
  | .next s => some (f s)
  | .fault _ => none
  | .refused _ => none

theorem eq_next_of_isNext {o : Outcome State Fault Refusal} (h : isNext o = true) : o = .next (nextOf o) := by
  cases o <;> simp_all [isNext, nextOf]

theorem exists_next_of_isNext {o : Outcome State Fault Refusal} (h : isNext o = true) : ∃ t, o = .next t :=
  ⟨_, eq_next_of_isNext h⟩

theorem forall_mem_of_all {α : Type} {P : α → Prop} [DecidablePred P] {xs : List α}
    (h : (xs.all fun x => decide (P x)) = true) : ∀ x ∈ xs, P x := by simpa using h

/-- The CORE after reset with these bytes presented on IN_BYTES. -/
def withBytes (bytes : List Byte) : State := { State.reset with inBytes := { bytes := bytes, pos := 0, passes := [] } }

/-- The CORE after reset with this file presented on IN_BITS. -/
def withFile (bytes : List Byte) : State := { State.reset with inBits := { bits := fileBits bytes, pos := 0 } }

/-- A state whose host issues this word next. -/
def issuing (w : CmdWord) (s : State) : State := { s with host := [.command w] }

/-- The input of the source's scenario S1. -/
def abc : List Byte := [0x41, 0x42, 0x43]

/-- The file of vector E3. -/
def fileOfAbc : List Byte := [0x00, 0x00, 0x00, 0x03, 0x00, 0x00, 0x00, 0x02, 0xA0, 0xA1, 0x50, 0xC0, 0x08]

/-- The tree of vector T1 with its header fields, FAV and TRV set, and `abc` on IN_BYTES. -/
def pairState : State :=
  { withBytes abc with
    flags := 0b00011#5, total := 3#32, leafCnt := 2#32, nCount := 3#18, root := some 2#17
    ft := [(0x4142#16, 1#32), (0x4300#16, 1#32)]
    node := [(0#17, .leaf 0x4142#16 1#48), (1#17, .leaf 0x4300#16 1#48), (2#17, .internal 2#48 0#17 1#17)] }

/-- The tree of vector T1 apart from a node store. -/
def pairTree : CodeTree := .node (.leaf 0x4142#16) (.leaf 0x4300#16)

/-- The tree of vector T5: a lone leaf 0xAABB. -/
def loneState : State :=
  { State.reset with
    flags := 0b00010#5, leafCnt := 1#32, nCount := 1#18, root := some 0#17
    node := [(0#17, .leaf 0xAABB#16 3#48)] }

/-- The empty tree of vector T6. -/
def emptyTreeState : State := { State.reset with flags := 0b00010#5 }

/-- Vector DC1: the encode dictionary of vector T1's tree in place, DEV set. -/
def encodingState : State :=
  { pairState with flags := 0b00111#5, ct := [(0x4142#16, [false]), (0x4300#16, [true])] }

/-- Vector DC1: the decode dictionary of vector T1's tree in place, the header accepted, and the body of E3 ahead. -/
def decodingState : State :=
  { State.reset with
    flags := 0b11010#5, total := 3#32, leafCnt := 2#32, nCount := 3#18, root := some 2#17, maxDepth := 1#17
    node := [(0#17, .leaf 0x4142#16 0#48), (1#17, .leaf 0x4300#16 0#48), (2#17, .internal 0#48 0#17 1#17)]
    dt := [([false], 0x4142#16), ([true], 0x4300#16)]
    inBits := { bits := fileBits fileOfAbc, pos := 99 } }

/-- The same for the lone leaf of vector X11, with these body bits ahead. -/
def loneDecodingState (body : Bits) : State :=
  { loneState with
    flags := 0b11010#5, total := 4#32, maxDepth := 1#17, dt := [([false], 0xAABB#16)]
    inBits := { bits := body, pos := 0 } }

/-- The top of the token loop of vector RD5 after `L(0x0102) L(0x0304)`: SP = 2, (REML, REMI) = (1, 2). -/
def loopState : State :=
  { State.reset with
    flags := 0b10000#5, total := 6#32, leafCnt := 3#32, nCount := 2#18, remL := 1#17, remI := 2#17
    node := [(0#17, .leaf 0x0102#16 0#48), (1#17, .leaf 0x0304#16 0#48)], stack := [1#17, 0#17], phase := .treeLoop
    inBits := { bits := encodeToken (.leaf 0x0506#16) ++ [false, false], pos := 0 } }

/-- The CORE in ERROR after a CorruptStreamError of TREE_RD. -/
def errorState : State := { State.reset with status := 0xA5#8 }

/-! ### Well-formedness: each check refuses an ill-formed code or sequence -/

theorem test_wf_accepts_every_row :
    commandWellFormed 0x0000000000000000#64 = true ∧ commandWellFormed 0xD000000000000000#64 = true ∧
    commandWellFormed 0x1FFFFFFFFFFFF000#64 = true ∧ tokenWellFormed [false] = true ∧
    codeWellFormed (.token (true :: List.replicate 16 false)) = true := by decide

theorem test_wf_refuses_opcode_E : commandWellFormed 0xE000000000000000#64 = false := by decide

theorem test_wf_refuses_operand_bit : commandWellFormed 0x3000000000001000#64 = false := by decide

theorem test_wf_refuses_reserved_bit : codeWellFormed (.command 0x1000100000005001#64) = false := by decide

theorem test_wf_refuses_short_and_long_tokens :
    tokenWellFormed [] = false ∧ tokenWellFormed [true] = false ∧ tokenWellFormed [false, false] = false := by decide

theorem test_wf_refuses_merge_of_one_subtree : treeWellFormed [.leaf 1#16, .merge] = false := by decide

theorem test_wf_refuses_empty_and_surplus_sequences :
    treeWellFormed [] = false ∧ treeWellFormed [.leaf 1#16, .leaf 2#16] = false ∧
    treeWellFormed [.leaf 1#16, .leaf 2#16, .merge] = true := by decide

/-! ### Decoding: words written out from 30_encoding.md R61, R62, R65, R66 -/

/-- OP 0000 and sixty zero bits. -/
theorem test_decode_clear :
    decode (.command 0b0000000000000000000000000000000000000000000000000000000000000000#64) = .ok .clear := by decide

/-- OP 0001, SYM 0100000101000010 in 59:44, COUNT with bit 12 and bit 14 of the word set, RSV zero. -/
theorem test_decode_ftWrite :
    decode (.command 0b0001010000010100001000000000000000000000000000000101000000000000#64) =
      .ok (.ftWrite 0x4142#16 5#32) := by decide

/-- SYM in 59:44 and COUNT in 43:12 meet at bit 44: all of SYM, none of COUNT, and the other way round. -/
theorem test_decode_ftWrite_field_bounds :
    decode (.command 0x1FFFF00000000000#64) = .ok (.ftWrite 0xFFFF#16 0#32) ∧
    decode (.command 0x10000FFFFFFFF000#64) = .ok (.ftWrite 0#16 0xFFFFFFFF#32) := by decide

theorem test_decode_plain_commands :
    decode (.command 0x2000000000000000#64) = .ok .analyze ∧ decode (.command 0x3000000000000000#64) = .ok .build ∧
    decode (.command 0x4000000000000000#64) = .ok .dictEnc ∧ decode (.command 0x5000000000000000#64) = .ok .hdrWr ∧
    decode (.command 0x6000000000000000#64) = .ok .treeWr ∧ decode (.command 0x7000000000000000#64) = .ok .encBody ∧
    decode (.command 0x8000000000000000#64) = .ok .compress ∧ decode (.command 0x9000000000000000#64) = .ok .hdrRd ∧
    decode (.command 0xA000000000000000#64) = .ok .treeRd ∧ decode (.command 0xB000000000000000#64) = .ok .dictDec ∧
    decode (.command 0xC000000000000000#64) = .ok .decBody ∧
    decode (.command 0xD000000000000000#64) = .ok .decompress := by decide

/-- Flag 1, then 0x4142, most significant bit first. -/
theorem test_decode_tLeaf :
    decode (.token [true, false, true, false, false, false, false, false, true, false, true, false, false, false, false,
      true, false]) = .ok (.tLeaf 0x4142#16) := by decide

theorem test_decode_tMerge : decode (.token [false]) = .ok .tMerge := by decide

/-- Vectors K1, K2, K3, K4, A15, and a token cut short. -/
theorem test_decode_refuses_by_name :
    decode (.command 0xE000000000000000#64) = .error .unassignedOpcode ∧
    decode (.command 0xF000000000000000#64) = .error .unassignedOpcode ∧
    decode (.command 0x0000000000000001#64) = .error .operandNotZero ∧
    decode (.command 0x3000000000001000#64) = .error .operandNotZero ∧
    decode (.command 0x1000100000005001#64) = .error .reservedNotZero ∧
    decode (.token [true, false]) = .error .truncatedToken ∧ decode (.token []) = .error .truncatedToken ∧
    decode (.token [false, true]) = .error .trailingBits := by decide

theorem test_encode_writes_the_rows :
    encode (.ftWrite 0x4142#16 5#32) = .command 0x1414200000005000#64 ∧
    encode .decompress = .command 0xD000000000000000#64 ∧ encode .tMerge = .token [false] ∧
    encode (.tLeaf 0x8001#16) = .token
      [true, true, false, false, false, false, false, false, false, false, false, false, false, false, false, false,
        true] := by decide

theorem test_decodeTableWord :
    decodeTableWord 64 0x1414200000005000 = some (.ftWrite 0x4142#16 5#32) ∧
    decodeTableWord 64 0xE000000000000000 = none ∧ decodeTableWord 24 0x14142 = some (.tLeaf 0x4142#16) ∧
    decodeTableWord 8 0 = some .tMerge := by decide

/-- A placed word is the first instruction after reset: BUILD of the empty table (vector T6), and T_LEAF. -/
theorem test_withFetchWord_runs_first :
    seen (fun t => (t.flags, t.status)) (step (State.reset.withFetchWord 64 0x3000000000000000)) =
      some (0b00010#5, 0x00#8) ∧
    seen (fun t => (t.node, t.remL)) (step (State.reset.withFetchWord 24 0x14142)) =
      some ([(0#17, .leaf 0x4142#16 0#48)], 0#17) := by decide +kernel

/-! ### One step of each instruction, against 95_test_vectors.md -/

/-- Part of program P5, step 4. -/
theorem test_clear_leaves_error :
    seen (fun t => (t.status, t.node, t.leafCnt, t.inBytes.bytes)) (exec .clear { pairState with status := 0xA5#8 }) =
      some (0x00#8, [], 0#32, abc) := by decide +kernel

/-- Vector A13. -/
theorem test_ftWrite_loads_the_largest :
    seen (fun t => (t.ft, t.flags)) (exec (.ftWrite 0xFFFF#16 0xFFFFFFFF#32) pairState) =
      some ([(0x4142#16, 1#32), (0x4300#16, 1#32), (0xFFFF#16, 0xFFFFFFFF#32)], 0#5) := by decide +kernel

/-- Vector A14. -/
theorem test_ftWrite_zero_removes :
    seen (fun t => t.ft) (exec (.ftWrite 0x4142#16 0#32) pairState) = some [(0x4300#16, 1#32)] := by decide +kernel

/-- Vector A5. -/
theorem test_analyze_counts_the_trailing_byte :
    seen (fun t => (t.ft, t.total, t.flags)) (exec .analyze (withBytes [0x43, 0x00, 0x41, 0x42, 0x43])) =
      some ([(0x4142#16, 1#32), (0x4300#16, 2#32)], 5#32, 0b00001#5) := by decide +kernel

/-- Vector A10. -/
theorem test_analyze_io_fault :
    seen (fun t => (t.status, t.flags, t.total, t.ft))
        (exec .analyze { withBytes abc with ioAnswers := [false, false, true] }) =
      some (0x23#8, 0#5, 2#32, [(0x4142#16, 1#32)]) := by decide +kernel

/-- Vector T4. -/
theorem test_build_breaks_ties :
    seen (fun t => (List.drop 5 t.node, t.root))
        (exec .build
          { State.reset with
            ft := [(1#16, 5#32), (2#16, 2#32), (3#16, 1#32), (4#16, 1#32), (5#16, 1#32)] }) =
      some ([(5#17, .internal 2#48 2#17 3#17), (6#17, .internal 3#48 4#17 1#17), (7#17, .internal 5#48 5#17 6#17),
        (8#17, .internal 10#48 0#17 7#17)], some 8#17) := by decide +kernel

/-- Vector T7. -/
theorem test_build_weights_are_48_bits :
    seen (fun t => List.drop 2 t.node)
        (exec .build { State.reset with ft := [(0#16, 0xFFFFFFFF#32), (0xFFFF#16, 0xFFFFFFFF#32)] }) =
      some [(2#17, .internal 0x0001FFFFFFFE#48 0#17 1#17)] := by decide +kernel

/-- Vector DC7: the rightmost leaf of a repeated symbol wins. -/
theorem test_dictEnc_rightmost_leaf_wins :
    seen (fun t => (t.ct, t.flags))
        (exec .dictEnc
          { pairState with
            node := [(0#17, .leaf 0x4141#16 0#48), (1#17, .leaf 0x4141#16 0#48), (2#17, .internal 0#48 0#17 1#17)] }) =
      some ([(0x4141#16, [true])], 0b00111#5) := by decide +kernel

/-- Vector DC5. -/
theorem test_dictEnc_lone_leaf_has_one_bit :
    seen (fun t => t.ct) (exec .dictEnc loneState) = some [(0xAABB#16, [false])] := by decide +kernel

/-- Section 2.5, unit-level: HDR_WR with TOTAL = 3, LEAFCNT = 2. -/
theorem test_hdrWr_writes_eight_bytes :
    seen (fun t => fileBytes t.outBits) (exec .hdrWr pairState) =
      some [0x00, 0x00, 0x00, 0x03, 0x00, 0x00, 0x00, 0x02] := by decide +kernel

/-- Vector K9. -/
theorem test_hdrWr_needs_fav :
    seen (fun t => (t.status, t.trv, t.outBits)) (exec .hdrWr loneState) = some (0x59#8, true, []) := by decide +kernel

/-- Vector W1. -/
theorem test_treeWr_writes_postorder :
    seen (fun t => (t.outBits.length, fileBytes (padOut t).outBits)) (exec .treeWr pairState) =
      some (35, [0xA0, 0xA1, 0x50, 0xC0, 0x00]) := by decide +kernel

/-- Vector K6. -/
theorem test_treeWr_needs_trv :
    seen (fun t => (t.status, t.outBits)) (exec .treeWr State.reset) = some (0x69#8, []) := by decide +kernel

/-- Section 2.5, unit-level: ENC_BODY with DC1's CT and input `41 42 43`. -/
theorem test_encBody_appends_code_words :
    seen (fun t => (t.outBits, t.status)) (exec .encBody encodingState) = some ([false, true], 0x00#8) := by
  decide +kernel

/-- Vector E9. -/
theorem test_encBody_lookup_miss :
    seen (fun t => (t.outBits, t.status))
        (exec .encBody { encodingState with inBytes := { bytes := abc, pos := 3, passes := [[0x41, 0x42, 0x44]] } }) =
      some ([false], 0x7B#8) := by decide +kernel

/-- Vector E3. -/
theorem test_compress_abc :
    seen (fun t => (fileBytes t.outBits, t.flags, t.status)) (exec .compress (withBytes abc)) =
      some (fileOfAbc, 0b00111#5, 0x00#8) := by decide +kernel

/-- Vector E10: the answers are those of 4 reads, 2 header words, 5 tree words, 4 reads and 2 code bits, then `Close()`. -/
theorem test_compress_close_faults :
    seen (fun t => (t.status, t.outBits.length))
        (exec .compress { withBytes abc with ioAnswers := List.replicate 17 false ++ [true] }) =
      some (0x73#8, 101) := by decide +kernel

/-- Vector X9, and the largest LEAFCNT that is accepted (vector X14). -/
theorem test_hdrRd_bounds_the_leaf_count :
    seen (fun t => (t.status, t.flags, t.leafCnt)) (exec .hdrRd (withFile [0, 0, 0, 4, 0, 1, 0, 1])) =
      some (0x95#8, 0#5, 65537#32) ∧
    seen (fun t => (t.status, t.flags, t.leafCnt)) (exec .hdrRd (withFile [0, 0, 0, 4, 0, 1, 0, 0])) =
      some (0x00#8, 0b10000#5, 65536#32) := by decide +kernel

/-- Vector X2. -/
theorem test_hdrRd_end_of_stream :
    seen (fun t => (t.status, t.inBits.pos)) (exec .hdrRd (withFile [0, 0, 0, 0, 0, 0, 0])) = some (0x95#8, 32) := by
  decide +kernel

/-- Vector RD5. -/
theorem test_treeRd_pops_the_right_child_first :
    seen (fun t => (List.drop 3 t.node, t.root, t.flags, t.inBits.pos))
        (exec .treeRd
          { State.reset with
            flags := 0b10000#5, leafCnt := 3#32
            inBits :=
              { bits := [Token.leaf 0x0102#16, .leaf 0x0304#16, .leaf 0x0506#16, .merge, .merge].flatMap encodeToken
                pos := 0 } }) =
      some ([(3#17, .internal 0#48 1#17 2#17), (4#17, .internal 0#48 0#17 3#17)], some 4#17, 0b10010#5, 53) := by
  decide +kernel

/-- Vector X1, after HDR_RD: NCOUNT = 1, IN_BITS at 82, FLAGS = 0x10. -/
theorem test_treeRd_end_of_stream :
    seen (fun t => (t.status, t.flags, t.nCount, t.inBits.pos))
        (exec .treeRd
          { withFile (fileOfAbc.take 12) with
            flags := 0b10000#5, total := 3#32, leafCnt := 2#32
            inBits := { bits := fileBits (fileOfAbc.take 12), pos := 64 } }) =
      some (0xA5#8, 0b10000#5, 1#18, 82) := by decide +kernel

/-- Vector DC2. -/
theorem test_dictDec_inverts_the_tree :
    seen (fun t => (t.dt, t.maxDepth, t.flags))
        (exec .dictDec
          { State.reset with
            flags := 0b00010#5, leafCnt := 3#32, nCount := 5#18, root := some 4#17
            node := [(0#17, .leaf 1#16 1#48), (1#17, .leaf 2#16 1#48), (2#17, .leaf 3#16 2#48),
              (3#17, .internal 2#48 0#17 1#17), (4#17, .internal 4#48 2#17 3#17)] }) =
      some ([([false], 3#16), ([true, false], 1#16), ([true, true], 2#16)], 2#17, 0b01010#5) := by decide +kernel

/-- Vector DC6. -/
theorem test_dictDec_of_the_empty_tree :
    seen (fun t => (t.dt, t.maxDepth, t.flags)) (exec .dictDec emptyTreeState) = some ([], 0#17, 0b01010#5) := by
  decide +kernel

/-- Program P2, step 5. -/
theorem test_decBody_drops_the_odd_byte :
    seen (fun t => (t.outBytes, t.inBits.pos, t.flags)) (exec .decBody decodingState) = some (abc, 101, 0b11010#5) := by
  decide +kernel

/-- Vector X11: no fault at length MAXDEPTH, overflow one bit later. -/
theorem test_decBody_path_overflow :
    seen (fun t => (t.status, t.outBytes, t.inBits.pos))
        (exec .decBody (loneDecodingState [false, true, false, false])) =
      some (0xC5#8, [0xAA, 0xBB], 3) := by decide +kernel

/-- Vector G5. -/
theorem test_decompress_three_leaves :
    seen (fun t => (t.outBytes, t.inBits.pos, t.status, t.flags))
        (exec .decompress (withFile [0, 0, 0, 6, 0, 0, 0, 3, 0x80, 0x81, 0x40, 0xC1, 0x20, 0xA0, 0xC2, 0xC0])) =
      some ([0x01, 0x02, 0x03, 0x04, 0x05, 0x06], 122, 0x00#8, 0b11010#5) := by decide +kernel

/-- Vector X8: a surplus leaf flag; the sixteen bits after it are not read. -/
theorem test_decompress_surplus_leaf :
    seen (fun t => (t.status, t.inBits.pos))
        (exec .decompress (withFile [0, 0, 0, 6, 0, 0, 0, 3, 0x80, 0x00, 0xC0, 0x00, 0x90, 0x00, 0x38, 0x00, 0x20])) =
      some (0xA5#8, 117) := by decide +kernel

/-- Vector RD5, third token: SP = 3 and (REML, REMI) = (0, 2). -/
theorem test_tLeaf_pushes :
    seen (fun t => (t.stack, t.remL, t.remI, t.nCount)) (step loopState) =
      some ([2#17, 1#17, 0#17], 0#17, 2#17, 3#18) := by decide +kernel

/-- 43_tree_serializer.md R122 c. -/
theorem test_tLeaf_surplus :
    seen (fun t => (t.status, t.node.length, t.phase)) (exec (.tLeaf 7#16) { loopState with remL := 0#17 }) =
      some (0xA5#8, 2, .idle) := by decide +kernel

/-- Vector W1's M on the stack of RD1: B = 1 is popped first and is the right child. -/
theorem test_tMerge_joins :
    seen (fun t => (List.drop 2 t.node, t.stack, t.remI)) (exec .tMerge loopState) =
      some ([(2#17, .internal 0#48 0#17 1#17)], [2#17], 1#17) := by decide +kernel

/-- Vector X7: one node on the stack. -/
theorem test_tMerge_underflow :
    seen (fun t => (t.status, t.nCount)) (exec .tMerge { loopState with stack := [0#17] }) = some (0xA5#8, 2#18) := by
  decide +kernel

/-- Vector K1 through `step`, and K11's ignored BUILD. -/
theorem test_dispatch_of_illegal_and_ignored_words :
    seen (fun t => (t.status, t.flags)) (step (issuing 0xE000000000000000#64 pairState)) = some (0xE7#8, 0b00011#5) ∧
    step (issuing 0x3000000000000000#64 errorState) = .next errorState := by
  refine ⟨by decide +kernel, rfl⟩

/-- 70_reset_and_hazards.md R185, 20_memory.md R54: reset leaves the streams; the host's close pads to a whole byte. -/
theorem test_host_events :
    seen (fun t => (t.status, t.node, t.inBytes.bytes)) (step { pairState with status := 0xA5#8, host := [.reset] }) =
      some (0x00#8, [], abc) ∧
    seen (fun t => t.outBits) (step { State.reset with outBits := [true, true, true], host := [.closeOutBits] }) =
      some [true, true, true, false, false, false, false, false] := by decide +kernel

/-- The end of the token loop of a lone leaf (43_tree_serializer.md R121). -/
theorem test_loop_end :
    seen (fun t => (t.root, t.trv, t.phase))
        (step
          { State.reset with
            flags := 0b10000#5, leafCnt := 1#32, nCount := 1#18, node := [(0#17, .leaf 0xAABB#16 0#48)]
            stack := [0#17], phase := .treeLoop }) =
      some (some 0#17, true, .idle) := by decide +kernel

/-- No host event listed: nothing happens (log 1). -/
theorem test_idle_step : step State.reset = .next State.reset := rfl

/-! ### Witnesses: for each obligation with hypotheses, an input that meets them all -/

theorem witness_StepRunsTheDecodedCommand :
    (issuing 0x3000000000000000#64 pairState).phase = .idle ∧
    (issuing 0x3000000000000000#64 pairState).host = [.command 0x3000000000000000#64] ∧
    (issuing 0x3000000000000000#64 pairState).isError = false ∧
    decode (.command 0x3000000000000000#64) = .ok .build ∧
    (issuing 0#64 errorState).isError = true ∧ decode (.command 0#64) = .ok .clear := by decide

/-- A leaf token with REML = 1, and a merge token with REML = 0 and REMI = 1. -/
theorem witness_StepRunsTheNextToken :
    (loopState.phase = .treeLoop ∧ loopState.remL ≠ 0#17 ∧ loopState.quiet ∧
      loopState.bitsAhead = encodeToken (.leaf 0x0506#16) ++ [false, false]) ∧
    (let s := { loopState with remL := 0#17, remI := 1#17, inBits := { bits := [false], pos := 0 } }
     s.phase = .treeLoop ∧ s.remI ≠ 0#17 ∧ s.quiet ∧ s.bitsAhead = encodeToken .merge ++ []) := by decide +kernel

theorem witness_ErrorStateIgnoresEveryWordButClear :
    (issuing 1#64 errorState).phase = .idle ∧ (issuing 1#64 errorState).host = [.command 1#64] ∧
    (issuing 1#64 errorState).isError = true ∧ (1#64 : CmdWord) ≠ 0#64 := by decide

/-- Each cause at its smallest word, and the last legal word. -/
theorem witness_IllegalWordsRaiseIllegalCommand :
    (issuing 0#64 pairState).phase = .idle ∧ (issuing 0#64 pairState).isError = false ∧
    0xE ≤ ((0xE000000000000000#64).extractLsb' 60 4).toNat ∧
    ((1#64).extractLsb' 60 4 ≠ 1#4 ∧ (1#64).extractLsb' 0 60 ≠ 0#60) ∧
    ((0x1000000000000001#64).extractLsb' 60 4 = 1#4 ∧ (0x1000000000000001#64).extractLsb' 0 12 ≠ 0#12) ∧
    ¬(0xE ≤ ((0xD000000000000000#64).extractLsb' 60 4).toNat ∨
      ((0xD000000000000000#64).extractLsb' 60 4 ≠ 1#4 ∧ (0xD000000000000000#64).extractLsb' 0 60 ≠ 0#60) ∨
      ((0xD000000000000000#64).extractLsb' 60 4 = 1#4 ∧ (0xD000000000000000#64).extractLsb' 0 12 ≠ 0#12)) := by
  decide

/-- No flag set; and for the commands with two prerequisites, one set and the other not. -/
theorem witness_MissingPrerequisiteRaisesSequenceError :
    State.reset.trv = false ∧ State.reset.hrv = false ∧
    (loneState.trv = true ∧ loneState.fav = false) ∧
    (let s := { State.reset with flags := 0b00001#5 }; s.fav = true ∧ s.trv = false ∧ s.dev = false) ∧
    (let s := { State.reset with flags := 0b10000#5 }; s.hrv = true ∧ s.ddv = false) := by decide

theorem witness_IoFaultRaisesIoErrorBeforeAnyEffect :
    ({ State.reset with ioAnswers := [true, false] } : State).ioAnswers = true :: [false] := rfl

theorem witness_ClearReturnsToResetState :
    (issuing 0#64 errorState).phase = .idle ∧ (issuing 0#64 errorState).host = .command 0#64 :: [] ∧
    ∃ t, exec .clear errorState = .next t := ⟨rfl, rfl, _, rfl⟩

theorem witness_ResetGivesTheResetState :
    ({ errorState with host := [.reset] } : State).phase = .idle ∧
    ({ errorState with host := [.reset] } : State).host = .reset :: [] := ⟨rfl, rfl⟩

/-- One instruction that completes and one that faults. -/
theorem witness_EachInstructionRaisesOnlyItsFaults :
    (∃ t, exec .compress (withBytes abc) = .next t) ∧ ∃ t, exec .decBody State.reset = .next t :=
  ⟨exists_next_of_isNext (by decide +kernel), exists_next_of_isNext (by decide +kernel)⟩

theorem witness_FtWriteLoadsOneEntry : Memory.wf pairState = true ∧ (0x4142#16 : Symbol) ≠ 0x4300#16 := by
  decide +kernel

theorem witness_AnalyzeCountsTheSymbols :
    (withBytes abc).quiet ∧ (withBytes abc).nextPass = abc ∧ abc.length ≤ 2 ^ 32 - 1 := by decide

theorem quiet_withBytes (X : List Byte) : (withBytes X).quiet := fun _ h => by simp [withBytes, State.reset] at h

theorem nextPass_withBytes (X : List Byte) : (withBytes X).nextPass = X := rfl

theorem witness_AnalyzeOfTooLongAnInputOverflows :
    ∃ X : List Byte, (withBytes X).quiet ∧ 2 ^ 32 ≤ (withBytes X).nextPass.length := by
  obtain ⟨n, hn⟩ : ∃ n, n = 2 ^ 32 := ⟨_, rfl⟩
  obtain ⟨X, hX⟩ : ∃ X : List Byte, X.length = n := ⟨List.replicate n 0, List.length_replicate⟩
  subst hn
  exact ⟨X, quiet_withBytes X, by rw [nextPass_withBytes, hX]⟩

theorem witness_AnalyzeFrame :
    (∃ t, exec .analyze (withBytes abc) = .next t) ∧
    ∃ t, exec .analyze { withBytes abc with ioAnswers := [true] } = .next t :=
  ⟨exists_next_of_isNext (by decide +kernel), exists_next_of_isNext (by decide +kernel)⟩

theorem witness_StepKeepsTheCountInvariant :
    (issuing 0x2000000000000000#64 pairState).inv = true ∧ pairState.fav = true ∧
    countsMatch (issuing 0x2000000000000000#64 pairState) = true ∧
    ∃ t, step (issuing 0x2000000000000000#64 pairState) = .next t :=
  ⟨by decide +kernel, by decide, by decide +kernel, exists_next_of_isNext (by decide +kernel)⟩

/-- Two leaves of weight 1: a tie that the index breaks; and the Internal node after both. -/
theorem witness_QueueKeysAreTotallyOrdered :
    (0#17 : NodeIdx) ≠ 1#17 ∧ keyBefore pairState 0#17 1#17 = true ∧ keyBefore pairState 1#17 2#17 = true := by
  decide +kernel

theorem witness_InsertAddsTheIndex :
    (0#17 : NodeIdx) ∉ ([] : List NodeIdx) ∧ State.reset.pq = [] ∧
    (let s := { pairState with pq := [0#17, 1#17] }; (2#17 : NodeIdx) ∉ s.pq ∧ s.pq.Nodup) := by decide

/-- R94's example: weights 5, 2, 1, 1, 1. -/
theorem witness_ExtractMinTakesTheLeastKey :
    (let s := { State.reset with
      pq := [0#17, 1#17, 2#17, 3#17, 4#17], nCount := 5#18
      node := [(0#17, .leaf 1#16 5#48), (1#17, .leaf 2#16 2#48), (2#17, .leaf 3#16 1#48), (3#17, .leaf 4#16 1#48),
        (4#17, .leaf 5#16 1#48)] }
     s.pq ≠ [] ∧ s.pq.Nodup) := by decide

/-- R95's example. -/
theorem witness_MergeStepJoinsTheTwoLeast :
    (let s := { State.reset with
      pq := [0#17, 1#17], nCount := 2#18, node := [(0#17, .leaf 1#16 1#48), (1#17, .leaf 2#16 1#48)] }
     2 ≤ s.pq.length ∧ s.pq.Nodup ∧ s.nCount.toNat ≤ 131070 ∧ (∀ j ∈ s.pq, j.toNat < s.nCount.toNat) ∧
       nodesLegal s = true) :=
  ⟨by decide, by decide, by decide, forall_mem_of_all (by decide), by decide +kernel⟩

theorem witness_BuildOfAtMostOneEntryMergesNothing :
    State.reset.ft = [] ∧
    ({ State.reset with ft := [(0xAABB#16, 3#32)] } : State).ft = [(0xAABB#16, 3#32)] ∧ (3#32 : Word32) ≠ 0#32 := by
  decide

theorem witness_BuildLaysOutLeavesThenMerges :
    Memory.wf pairState = true ∧ pairState.ft ≠ [] ∧ pairState.ft[1]? = some (0x4300#16, 1#32) := by decide +kernel

theorem witness_BuildMakesOneTreeOfAllEntries :
    Memory.wf pairState = true ∧ pairState.ft ≠ [] ∧
    ∃ t, exec .build pairState = .next t ∧ (2#17 : NodeIdx).toNat < t.nCount.toNat ∧
      readNode t 2#17 = .internal 2#48 0#17 1#17 :=
  ⟨by decide +kernel, by decide, nextOf (exec .build pairState), eq_next_of_isNext (by decide +kernel),
    by decide +kernel, by decide +kernel⟩

theorem witness_BuildDependsOnTheTableAlone :
    pairState.ft = ({ encodingState with pq := [7#17], flags := 0#5 } : State).ft ∧
    ∃ t, exec .build pairState = .next t :=
  ⟨rfl, exists_next_of_isNext (by decide +kernel)⟩

theorem witness_DictEncFillsTheBitPathTable :
    (pairState.trv = true ∧ pairState.hasTree pairTree = true ∧ pairTree.leaves ≤ 65536) ∧
    (loneState.trv = true ∧ loneState.hasTree (.leaf 0xAABB#16) = true) ∧
    (emptyTreeState.trv = true ∧ emptyTreeState.root = none) := by decide +kernel

theorem witness_DictDecFillsTheInverseTable :
    (decodingState.trv = true ∧ decodingState.hasTree pairTree = true ∧ pairTree.leaves ≤ 65536) ∧
    (emptyTreeState.trv = true ∧ emptyTreeState.root = none) := by decide +kernel

theorem witness_DictionaryFrame :
    ((∃ t, exec .dictEnc pairState = .next t) ∧ ∃ t, exec .dictEnc State.reset = .next t) ∧
    (∃ t, exec .dictDec pairState = .next t) ∧ ∃ t, exec .dictDec State.reset = .next t :=
  ⟨⟨exists_next_of_isNext (by decide +kernel), exists_next_of_isNext (by decide +kernel)⟩,
    exists_next_of_isNext (by decide +kernel), exists_next_of_isNext (by decide +kernel)⟩

theorem witness_CodeWordsAreAPrefixCode :
    treePaths pairState = some [(0x4142#16, [false]), (0x4300#16, [true])] := by decide +kernel

theorem witness_DictionariesAreInverse :
    pairState.trv = true ∧ pairState.hasTree pairTree = true ∧ pairTree.leaves ≤ 65536 ∧ pairTree.syms.Nodup := by
  decide +kernel

theorem witness_StepKeepsDictionariesMatchingTheTree :
    (issuing 0xB000000000000000#64 encodingState).inv = true ∧ encodingState.dev = true ∧
    dictionariesMatch (issuing 0xB000000000000000#64 encodingState) = true ∧
    ∃ t, step (issuing 0xB000000000000000#64 encodingState) = .next t :=
  ⟨by decide +kernel, by decide, by decide +kernel, exists_next_of_isNext (by decide +kernel)⟩

/-- REML = 1 and 0; the last index that can be allocated. -/
theorem witness_LeafTokenPushesALeaf :
    (loopState.remL ≠ 0#17 ∧ loopState.nCount.toNat ≤ 131070) ∧
    (({ loopState with nCount := 131070#18 } : State).nCount.toNat ≤ 131070) ∧
    ({ loopState with remL := 0#17 } : State).remL = 0#17 := by decide

theorem witness_MergeTokenJoinsTheTwoTopNodes :
    (loopState.remI ≠ 0#17 ∧ loopState.stack = [1#17, 0#17] ∧ loopState.nCount.toNat ≤ 131070) ∧
    ({ loopState with remI := 0#17 } : State).remI = 0#17 ∧ ({ loopState with stack := [0#17] } : State).stack.length < 2 := by
  decide

theorem witness_TreeWrWritesThePostorder :
    (emptyTreeState.trv = true ∧ emptyTreeState.quiet ∧ emptyTreeState.root = none) ∧
    (pairState.trv = true ∧ pairState.quiet ∧ pairState.hasTree pairTree = true ∧ pairTree.leaves ≤ 65536) := by
  decide +kernel

/-- The state of program P2 after HDR_RD. -/
def headerReadState : State :=
  { State.reset with
    flags := 0b10000#5, total := 3#32, leafCnt := 2#32, inBits := { bits := fileBits fileOfAbc, pos := 64 } }

theorem witness_TreeRdRebuildsTheSerializedTree :
    headerReadState.hrv = true ∧ headerReadState.quiet ∧ headerReadState.leafCnt.toNat = pairTree.leaves ∧
    pairTree.leaves ≤ 65536 ∧ headerReadState.bitsAhead = pairTree.tokenBits ++ [false, true, false, false, false] := by
  decide +kernel

theorem witness_TreeRdOfNoLeafReadsNothing :
    (let s := { State.reset with flags := 0b10000#5 }; s.hrv = true ∧ s.leafCnt = 0#32) := by decide

/-- No bit at all, and all bits but the last. -/
theorem witness_TreeRdOfATruncatedTreeIsCorrupt :
    headerReadState.hrv = true ∧ headerReadState.leafCnt.toNat = pairTree.leaves ∧
    (let s := { headerReadState with inBits := { bits := pairTree.tokenBits.take 34, pos := 0 } }
     s.quiet ∧ s.bitsAhead <+: pairTree.tokenBits ∧ s.bitsAhead ≠ pairTree.tokenBits) ∧
    (let s := { headerReadState with inBits := { bits := [], pos := 0 } }
     s.quiet ∧ s.bitsAhead <+: pairTree.tokenBits ∧ s.bitsAhead ≠ pairTree.tokenBits) := by decide +kernel

theorem witness_HdrWrWritesTheHeader : pairState.fav = true ∧ pairState.trv = true ∧ pairState.quiet := by decide

theorem witness_EncBodyEmitsTheCodeWords :
    encodingState.fav = true ∧ encodingState.dev = true ∧ encodingState.quiet ∧ encodingState.nextPass = abc ∧
    ∀ sym ∈ symbols abc, readCt encodingState sym ≠ none :=
  ⟨by decide, by decide, by decide, rfl, forall_mem_of_all (by decide +kernel)⟩

/-- Vector E9. -/
theorem witness_EncBodyOfAnUnknownSymbolMisses :
    (let s := { encodingState with inBytes := { bytes := abc, pos := 3, passes := [[0x41, 0x42, 0x44]] } }
     s.fav = true ∧ s.dev = true ∧ s.quiet ∧ symbols s.nextPass = [0x4142#16] ++ 0x4400#16 :: [] ∧
       (∀ x ∈ [0x4142#16], readCt s x ≠ none) ∧ readCt s 0x4400#16 = none) :=
  ⟨by decide, by decide, by decide, by decide +kernel, forall_mem_of_all (by decide +kernel), by decide +kernel⟩

theorem witness_OutputCommandsFrame :
    (∃ t, exec .hdrWr pairState = .next t) ∧ (∃ t, exec .treeWr pairState = .next t) ∧
    (∃ t, exec .encBody encodingState = .next t) ∧ ∃ t, exec .encBody pairState = .next t :=
  ⟨exists_next_of_isNext (by decide +kernel), exists_next_of_isNext (by decide +kernel),
    exists_next_of_isNext (by decide +kernel), exists_next_of_isNext (by decide +kernel)⟩

theorem witness_CompressWritesTheWholeFile :
    (withBytes abc).quiet ∧ (withBytes abc).delivers abc ∧ abc.length ≤ 2 ^ 32 - 1 ∧ abc ≠ [] ∧
    (withBytes []).quiet ∧ (withBytes []).delivers [] := by decide

theorem witness_CompressDependsOnTheInputAlone :
    (withBytes abc).quiet ∧ encodingState.quiet ∧ (withBytes abc).delivers abc ∧ encodingState.delivers abc ∧
    abc.length ≤ 2 ^ 32 - 1 ∧ (withBytes abc).outBits = [] ∧ encodingState.outBits = [] := by decide

/-- LEAFCNT at 65536 (accepted) and 65537, LEAFCNT = 0 with TOTAL = 0 (accepted) and 1, and 63 bits. -/
theorem witness_HdrRdReadsAndChecksTheHeader :
    ((withFile [0, 0, 0, 4, 0, 1, 0, 0]).quiet ∧
      (withFile [0, 0, 0, 4, 0, 1, 0, 0]).bitsAhead = fieldBits 4#32 ++ fieldBits 65536#32 ++ []) ∧
    ((65536#32 : Word32).toNat ≤ 65536 ∧ (65536#32 : Word32) ≠ 0#32) ∧ 65536 < (65537#32 : Word32).toNat ∧
    (withFile [0, 0, 0, 1, 0, 0, 0, 0]).bitsAhead = fieldBits 1#32 ++ fieldBits 0#32 ++ [] ∧
    ({ State.reset with inBits := { bits := List.replicate 63 false, pos := 0 } } : State).bitsAhead.length < 64 := by
  decide +kernel

theorem witness_DecBodyEmitsTotalBytes :
    decodingState.hrv = true ∧ decodingState.ddv = true ∧ decodingState.quiet ∧
    decodingState.matchesEach [(0x4142#16, [false]), (0x4300#16, [true])] ∧
    [(0x4142#16, [false]), (0x4300#16, [true])].length = (decodingState.total.toNat + 1) / 2 ∧
    decodingState.bitsAhead = pickBits [(0x4142#16, [false]), (0x4300#16, [true])] ++ [false, false, false] := by
  decide +kernel

/-- The bits end after one code word; and vector X11's overflow. -/
theorem witness_DecBodyOfACorruptBodyFaults :
    (let s := loneDecodingState [false]
     s.hrv = true ∧ s.ddv = true ∧ s.quiet ∧ s.matchesEach [(0xAABB#16, [false])] ∧
       2 * [(0xAABB#16, [false])].length < s.total.toNat ∧ s.bitsAhead = pickBits [(0xAABB#16, [false])]) ∧
    (let s := loneDecodingState [false, true, false, false]
     s.quiet ∧ s.matchesEach [(0xAABB#16, [false])] ∧ [true, false].length = s.maxDepth.toNat + 1 ∧
       (∀ q ∈ [true, false].inits, q ≠ [] → readDt s q = none) ∧
       s.bitsAhead = pickBits [(0xAABB#16, [false])] ++ [true, false] ++ [false]) := by decide +kernel

theorem witness_InputCommandsFrame :
    (∃ t, exec .hdrRd (withFile fileOfAbc) = .next t) ∧ (∃ t, exec .treeRd headerReadState = .next t) ∧
    ∃ t, exec .decBody decodingState = .next t :=
  ⟨exists_next_of_isNext (by decide +kernel), exists_next_of_isNext (by decide +kernel),
    exists_next_of_isNext (by decide +kernel)⟩

theorem witness_DecompressReadsAValidFile :
    (withFile fileOfAbc).quiet ∧ pairTree.leaves ≤ 65536 ∧
    (∀ e ∈ [(0x4142#16, [false]), (0x4300#16, [true])], e ∈ pairTree.codes) ∧
    [(0x4142#16, [false]), (0x4300#16, [true])].length = ((3#32 : Word32).toNat + 1) / 2 ∧
    (withFile fileOfAbc).bitsAhead =
      fieldBits 3#32 ++ fieldBits (BitVec.ofNat 32 pairTree.leaves) ++ pairTree.tokenBits ++
        pickBits [(0x4142#16, [false]), (0x4300#16, [true])] ++ [false, false, false] ∧
    (withFile [0, 0, 0, 0, 0, 0, 0, 0]).bitsAhead = fieldBits 0#32 ++ fieldBits 0#32 ++ [] := by decide +kernel

theorem witness_DecompressOfCompressIsTheInput :
    ∃ s t u : State, s.quiet ∧ s.delivers abc ∧ abc.length ≤ 2 ^ 32 - 1 ∧ s.outBits = [] ∧
      exec .compress s = .next t ∧ u.quiet ∧ u.inBits = { bits := t.outBits, pos := 0 } ∧ u.outBytes = [] :=
  ⟨withBytes abc, nextOf (exec .compress (withBytes abc)),
    { State.reset with inBits := { bits := (nextOf (exec .compress (withBytes abc))).outBits, pos := 0 } },
    by decide, by decide, by decide, rfl, eq_next_of_isNext (by decide +kernel), by simp [State.reset], rfl, rfl⟩

theorem witness_TruncatedFileIsDetected :
    ∃ s t u : State, s.quiet ∧ s.delivers abc ∧ abc.length ≤ 2 ^ 32 - 1 ∧ s.outBits = [] ∧
      exec .compress s = .next t ∧ u.quiet ∧
      u.inBits = { bits := t.outBits.take (t.outBits.length - 8), pos := 0 } :=
  ⟨withBytes abc, nextOf (exec .compress (withBytes abc)),
    { State.reset with
      inBits :=
        { bits := (nextOf (exec .compress (withBytes abc))).outBits.take
            ((nextOf (exec .compress (withBytes abc))).outBits.length - 8)
          pos := 0 } },
    by decide, by decide, by decide, rfl, eq_next_of_isNext (by decide +kernel), by simp [State.reset], rfl⟩

theorem witness_UnitCommandsEqualDecompress : (withFile fileOfAbc).phase = .idle := rfl

theorem witness_UnitCommandsEqualCompress :
    (withBytes abc).phase = .idle ∧
    ∃ t, exec .compress { withBytes abc with host := [] } = .next t ∧ t.status = 0x00#8 :=
  ⟨rfl, nextOf (exec .compress (withBytes abc)), eq_next_of_isNext (by decide +kernel), by decide +kernel⟩

theorem witness_MacroFrame :
    (∃ t, exec .compress (withBytes abc) = .next t) ∧ ∃ t, exec .decompress (withFile fileOfAbc) = .next t :=
  ⟨exists_next_of_isNext (by decide +kernel), exists_next_of_isNext (by decide +kernel)⟩

theorem witness_OutputsOnlyGrow : ∃ t, exec .decompress (withFile fileOfAbc) = .next t :=
  exists_next_of_isNext (by decide +kernel)

/-- Idle with a command next, and inside the token loop. -/
theorem witness_StepKeepsTheInvariant :
    ((issuing 0x3000000000000000#64 encodingState).inv = true ∧
      ∃ t, step (issuing 0x3000000000000000#64 encodingState) = .next t) ∧
    loopState.inv = true ∧ ∃ t, step loopState = .next t :=
  ⟨⟨by decide +kernel, exists_next_of_isNext (by decide +kernel)⟩, by decide +kernel,
    exists_next_of_isNext (by decide +kernel)⟩

theorem witness_StepNeverStops : decodingState.inv = true ∧ loopState.inv = true ∧ errorState.inv = true := by
  decide +kernel

theorem witness_EveryCodeOfAnInstructionIsItsEncoding :
    decode (.command 0x1FFFFFFFFFFFF000#64) = .ok (.ftWrite 0xFFFF#16 0xFFFFFFFF#32) := by decide

end Sys2Proof.Tests
end

section
/-! SUPPORT. TreeBuilder (spec/41_tree_builder.md): the order of the queue, what each micro-operation does, said once,
and BUILD of the smallest tables; with these the statements of this unit. -/

namespace Sys2Proof.Machine

open Sys2Proof

/-! ### The order key (R92) -/

/-- `key(i) = (NODE[i].weight, i)`, in the lexicographic order of pairs. -/
def queueKey (s : State) (i : NodeIdx) : ℕ ×ₗ ℕ := toLex ((weightOf s i).toNat, i.toNat)

theorem keyBefore_iff_queueKey_lt {s : State} {i j : NodeIdx} :
    keyBefore s i j = true ↔ queueKey s i < queueKey s j := by
  simp [keyBefore, queueKey, Prod.Lex.toLex_lt_toLex, BitVec.toNat_inj]

theorem queueKey_injective (s : State) : Function.Injective (queueKey s) := by
  intro i j h
  have hpair := toLex.injective h
  exact BitVec.eq_of_toNat_eq (Prod.mk.inj hpair).2

/-- A least index comes strictly before every other one. -/
theorem keyBefore_of_queueKey_le {s : State} {i j : NodeIdx} (h : queueKey s i ≤ queueKey s j) (hne : j ≠ i) :
    keyBefore s i j = true :=
  keyBefore_iff_queueKey_lt.2 (lt_of_le_of_ne h fun e => hne (queueKey_injective s e.symm))

/-! ### PQ_INSERT and PQ_EXTRACT_MIN (R93, R94) -/

theorem leastFrom_mem (s : State) (m : NodeIdx) (l : List NodeIdx) : leastFrom s m l ∈ m :: l := by
  induction l generalizing m with
  | nil => simp [leastFrom]
  | cons i rest ih =>
    rw [leastFrom]
    split
    · exact List.mem_cons_of_mem m (ih i)
    · exact List.cons_subset_cons m (List.subset_cons_self i rest) (ih m)

theorem queueKey_leastFrom_le (s : State) (m : NodeIdx) (l : List NodeIdx) :
    ∀ j ∈ m :: l, queueKey s (leastFrom s m l) ≤ queueKey s j := by
  induction l generalizing m with
  | nil => simp [leastFrom]
  | cons i rest ih =>
    have h := ih (if keyBefore s i m then i else m)
    simp only [leastFrom, List.forall_mem_cons] at h ⊢
    obtain ⟨hbest, hrest⟩ := h
    by_cases hk : keyBefore s i m = true
    · rw [if_pos hk] at hbest hrest ⊢
      exact ⟨hbest.trans (keyBefore_iff_queueKey_lt.1 hk).le, hbest, hrest⟩
    · rw [if_neg hk] at hbest hrest ⊢
      exact ⟨hbest, hbest.trans (not_lt.1 (mt keyBefore_iff_queueKey_lt.2 hk)), hrest⟩

/-- PQ_EXTRACT_MIN on a non-empty queue: the index that comes before all others is taken out, nothing else changes. -/
theorem pqExtractMin_of_ne_nil {s : State} (h : s.pq ≠ []) :
    ∃ m, pqExtractMin s = .ok m { s with pq := s.pq.erase m } ∧ m ∈ s.pq ∧
      ∀ j ∈ s.pq, j ≠ m → keyBefore s m j = true := by
  obtain ⟨i, rest, hpq⟩ := List.exists_cons_of_ne_nil h
  refine ⟨leastFrom s i rest, by simp [pqExtractMin, hpq], hpq ▸ leastFrom_mem s i rest, fun j hj hne => ?_⟩
  exact keyBefore_of_queueKey_le (queueKey_leastFrom_le s i rest j (hpq ▸ hj)) hne

/-- The only index of a queue is its least. -/
theorem pqExtractMin_of_singleton {s : State} {i : NodeIdx} (h : s.pq = [i]) :
    pqExtractMin s = .ok i { s with pq := [] } := by
  simp [pqExtractMin, h, leastFrom]

/-- Settles O22: the set is a list without repeats, and the new index stands at its head. -/
theorem insertAddsTheIndex : Obligations.InsertAddsTheIndex := by
  intro s i hi hnodup
  refine ⟨List.nodup_cons.2 ⟨hi, hnodup⟩, fun j => List.mem_cons, rfl, fun hempty => ?_⟩
  exact ⟨_, pqExtractMin_of_singleton (by rw [pqInsert_pq, hempty])⟩

/-- Settles O23, from what PQ_EXTRACT_MIN does; in a queue without repeats the erased index is gone. -/
theorem extractMinTakesTheLeastKey : Obligations.ExtractMinTakesTheLeastKey := by
  intro s hne hnodup
  obtain ⟨m, hm, hmem, hleast⟩ := pqExtractMin_of_ne_nil hne
  refine ⟨m, _, hm, hmem, hleast, fun j => ?_, hnodup.erase m, rfl⟩
  rw [hnodup.mem_erase_iff, and_comm]

/-! ### MERGE_STEP (R95) -/

/-- Weights are about the node store alone. -/
theorem weightOf_congr {s t : State} (h : s.node = t.node) (i : NodeIdx) : weightOf s i = weightOf t i := by
  simp only [weightOf, readNode, h]

/-- So are keys. -/
theorem keyBefore_congr {s t : State} (h : s.node = t.node) (i j : NodeIdx) : keyBefore s i j = keyBefore t i j := by
  simp only [keyBefore, weightOf_congr h]

/-- The state after a merge of `a` on the left and `b` on the right. -/
def merged (a b : NodeIdx) (s : State) : State :=
  { s with
    pq := s.nCount.setWidth 17 :: (s.pq.erase a).erase b
    node := Table.put idxRank s.node (s.nCount.setWidth 17) (.internal (weightOf s a + weightOf s b) a b)
    nCount := s.nCount + 1#18 }

/-- MERGE_STEP on a queue of two or more, with room for a node, merges the least index and the least of the others. -/
theorem mergeStep_of_two_le {s : State} (hlen : 2 ≤ s.pq.length) (hroom : s.nCount.toNat < Config.maxNodes) :
    ∃ a b, mergeStep s = .ok () (merged a b s) ∧ a ∈ s.pq ∧ b ∈ s.pq.erase a ∧
      (∀ j ∈ s.pq, j ≠ a → keyBefore s a j = true) ∧ (∀ j ∈ s.pq.erase a, j ≠ b → keyBefore s b j = true) := by
  have hne : s.pq ≠ [] := List.ne_nil_of_length_pos (by omega)
  obtain ⟨a, ha, hamem, haleast⟩ := pqExtractMin_of_ne_nil hne
  have hne' : s.pq.erase a ≠ [] := List.ne_nil_of_length_pos (by rw [List.length_erase_of_mem hamem]; omega)
  obtain ⟨b, hb, hbmem, hbleast⟩ := pqExtractMin_of_ne_nil (s := { s with pq := s.pq.erase a }) hne'
  refine ⟨a, b, ?_, hamem, hbmem, haleast, fun j hj hjb => ?_⟩
  · simp only [mergeStep, ha, hb, bind_ok, allocNode, if_pos hroom]
    rfl
  · exact keyBefore_congr (s := { s with pq := s.pq.erase a }) rfl b j ▸ hbleast j hj hjb

theorem readNode_merged_same (a b : NodeIdx) (s : State) :
    readNode (merged a b s) (s.nCount.setWidth 17) = .internal (weightOf s a + weightOf s b) a b := by
  simp [readNode, merged, find_put_same]

theorem readNode_merged_other (a b : NodeIdx) (s : State) {j : NodeIdx} (h : j ≠ s.nCount.setWidth 17) :
    readNode (merged a b s) j = readNode s j := by
  simp only [readNode, merged]
  rw [find_put_other idxRank _ _ _ _ (mt idxRank_inj.1 h)]

/-- A merge lowers |PQ| by one. -/
theorem length_pq_merged {a b : NodeIdx} {s : State} (ha : a ∈ s.pq) (hb : b ∈ s.pq.erase a) :
    (merged a b s).pq.length + 1 = s.pq.length := by
  have hlast : ((s.pq.erase a).erase b).length + 1 = (s.pq.erase a).length := List.length_erase_add_one hb
  have hfirst : (s.pq.erase a).length + 1 = s.pq.length := List.length_erase_add_one ha
  simp only [merged, List.length_cons]
  omega

theorem nCount_merged {s : State} (h : s.nCount.toNat < Config.maxNodes) (a b : NodeIdx) :
    (merged a b s).nCount.toNat = s.nCount.toNat + 1 := by
  simp only [Config.maxNodes] at h
  simp only [merged, BitVec.toNat_add]
  exact Nat.mod_eq_of_lt (by simp; omega)

/-- Settles O24: in a queue without repeats, two erasures take out exactly the two merged indices. -/
theorem mergeStepJoinsTheTwoLeast : Obligations.MergeStepJoinsTheTwoLeast := by
  intro s hlen hnodup hcount _ _
  have hroom : s.nCount.toNat < Config.maxNodes := Nat.lt_succ_of_le hcount
  obtain ⟨a, b, hmerge, ha, hb, haleast, hbleast⟩ := mergeStep_of_two_le hlen hroom
  obtain ⟨hba, hb'⟩ := hnodup.mem_erase_iff.1 hb
  refine ⟨a, b, _, hmerge, ha, hb', hba.symm, haleast,
    fun j hj hja hjb => hbleast j (hnodup.mem_erase_iff.2 ⟨hja, hj⟩) hjb,
    readNode_merged_same a b s, fun j hj => readNode_merged_other a b s hj, nCount_merged hroom a b,
    length_pq_merged ha hb, fun j => ?_, rfl⟩
  simp only [merged, List.mem_cons, (hnodup.erase a).mem_erase_iff, hnodup.mem_erase_iff]
  tauto

/-! ### BUILD of an empty table and of one entry (R97, R98) -/

theorem mergeLoop_of_length_le_one (n : Nat) {s : State} (h : s.pq.length ≤ 1) : mergeLoop n s = .ok () s := by
  cases n with
  | zero => rfl
  | succ n => rw [mergeLoop, if_pos h]

/-- An empty node store gives the empty tree (R98). -/
theorem buildTree_of_empty {s : State} (h : s.nCount = 0#18) :
    buildTree s = .ok () { s with leafCnt := 0#32, root := none } := by
  simp [buildTree, h]

/-- With one node in the store and in the queue nothing is merged (R97). -/
theorem buildTree_of_single {s : State} {i : NodeIdx} (hcount : s.nCount = 1#18) (hpq : s.pq = [i]) :
    buildTree s = .ok () { s with leafCnt := 1#32, root := some i, pq := [] } := by
  have hleaf : s.nCount.setWidth 32 = 1#32 := by rw [hcount]; rfl
  simp only [buildTree, hleaf]
  rw [if_neg (by decide), mergeLoop_of_length_le_one _ (by simp [hpq]), bind_ok,
    pqExtractMin_of_singleton (s := { s with leafCnt := 1#32 }) hpq, bind_ok]

/-- Seeding one entry: its leaf, in the queue. -/
theorem seedLeaves_single {sym : Symbol} {count : Word32} {s : State} (hcount : count ≠ 0#32)
    (hroom : s.nCount.toNat < Config.maxNodes) :
    seedLeaves [(sym, count)] s = .ok () (pqInsert (s.nCount.setWidth 17)
      { s with
        node := Table.put idxRank s.node (s.nCount.setWidth 17) (.leaf sym (count.setWidth 48))
        nCount := s.nCount + 1#18 }) := by
  simp [seedLeaves, hcount, allocNode, hroom]

theorem exec_build (s : State) : exec .build s = (buildUnit s).outcome := rfl

/-- BUILD is its start, seeding, and the building of the tree; then TRV is set and PQ is free (R96). -/
theorem exec_build_of_parts {s u v : State} (hseed : seedLeaves s.ft (buildStart s) = .ok () u)
    (htree : buildTree u = .ok () v) : exec .build s = .next (releasePq (setFlags trvMask v)) := by
  have hunit : buildUnit s = .ok () (releasePq (setFlags trvMask v)) := by
    simp only [buildUnit]
    rw [show (buildStart s).ft = s.ft from rfl, hseed, bind_ok, htree, bind_ok, atEnd_ok]
  rw [exec_build, hunit, outcome_ok]

/-- Settles O25: seeding makes no leaf, or one; either way there is nothing to merge. -/
theorem buildOfAtMostOneEntryMergesNothing : Obligations.BuildOfAtMostOneEntryMergesNothing := by
  constructor
  · intro s hft
    have hseed : seedLeaves s.ft (buildStart s) = .ok () (buildStart s) := by rw [hft, seedLeaves]
    exact ⟨_, exec_build_of_parts hseed (buildTree_of_empty rfl), rfl⟩
  · intro s sym count hft hcount
    have hseed := seedLeaves_single (sym := sym) (s := buildStart s) hcount (show 0 < Config.maxNodes by decide)
    rw [← hft] at hseed
    exact ⟨_, exec_build_of_parts hseed (buildTree_of_single rfl rfl), rfl⟩

/-! ### BUILD depends on FT alone (R100) -/

/-- Two pieces of a command, on states related by `R`: both go on with one value and states again related, or both stop.
BUILD raises no fault (R96), so neither ends in one. -/
inductive Flow.InStep {α : Type} (R : State → State → Prop) : Flow α → Flow α → Prop where
  | ok (a : α) {s t : State} (h : R s t) : Flow.InStep R (.ok a s) (.ok a t)
  | stop (e : Fault) : Flow.InStep R (.stop e) (.stop e)

theorem Flow.InStep.bind {α β : Type} {R Q : State → State → Prop} {m m' : Flow α} {f f' : α → State → Flow β}
    (h : Flow.InStep R m m') (hf : ∀ a s t, R s t → Flow.InStep Q (f a s) (f' a t)) :
    Flow.InStep Q (m.bind f) (m'.bind f') := by
  cases h with
  | ok a h => exact hf a _ _ h
  | stop e => exact .stop e

theorem Flow.InStep.atEnd {α : Type} {R Q : State → State → Prop} {m m' : Flow α} {g : State → State}
    (h : Flow.InStep R m m') (hg : ∀ s t, R s t → Q (g s) (g t)) : Flow.InStep Q (m.atEnd g) (m'.atEnd g) := by
  cases h with
  | ok a h => exact .ok a (hg _ _ h)
  | stop e => exact .stop e

/-- Where the first of two such commands completes, so does the second. -/
theorem Flow.InStep.outcome_next {R : State → State → Prop} {m m' : Flow Unit} {t : State} (h : Flow.InStep R m m')
    (ht : m.outcome = .next t) : ∃ t', m'.outcome = .next t' ∧ R t t' := by
  cases h with
  | ok a h =>
    cases ht
    exact ⟨_, rfl, h⟩
  | stop e => cases ht

/-- What BUILD works on: the same NODE, NCOUNT and PQ. The two LEAFCNTs are related by `P`: seeding and merging leave
them alone, so the same lemmas serve before LEAFCNT is written (`P` says nothing) and after (`P` is equality). -/
structure SameStore (P : Word32 → Word32 → Prop) (s t : State) : Prop where
  node : s.node = t.node
  nCount : s.nCount = t.nCount
  pq : s.pq = t.pq
  leafCnt : P s.leafCnt t.leafCnt

/-- What BUILD answers: the same NODE, NCOUNT, LEAFCNT and ROOT. -/
structure SameTree (s t : State) : Prop where
  node : s.node = t.node
  nCount : s.nCount = t.nCount
  leafCnt : s.leafCnt = t.leafCnt
  root : s.root = t.root

section

variable {P : Word32 → Word32 → Prop} {s t : State}

theorem leastFrom_congr (h : s.node = t.node) (m : NodeIdx) (l : List NodeIdx) : leastFrom s m l = leastFrom t m l := by
  induction l generalizing m with
  | nil => rfl
  | cons i rest ih => simp only [leastFrom, ih, keyBefore_congr h]

theorem pqInsert_sameStore (h : SameStore P s t) (i : NodeIdx) : SameStore P (pqInsert i s) (pqInsert i t) :=
  ⟨h.node, h.nCount, congrArg (i :: ·) h.pq, h.leafCnt⟩

theorem pqExtractMin_sameStore (h : SameStore P s t) : Flow.InStep (SameStore P) (pqExtractMin s) (pqExtractMin t) := by
  unfold pqExtractMin
  rw [h.pq]
  cases t.pq with
  | nil => exact .stop _
  | cons i rest =>
    simp only [leastFrom_congr h.node]
    exact .ok _ ⟨h.node, h.nCount, rfl, h.leafCnt⟩

theorem allocNode_sameStore (h : SameStore P s t) (n : Node) :
    Flow.InStep (SameStore P) (allocNode n s) (allocNode n t) := by
  unfold allocNode
  rw [h.nCount, h.node]
  split
  · exact .ok _ ⟨rfl, rfl, h.pq, h.leafCnt⟩
  · exact .stop _

theorem mergeStep_sameStore (h : SameStore P s t) : Flow.InStep (SameStore P) (mergeStep s) (mergeStep t) := by
  refine (pqExtractMin_sameStore h).bind fun a s t h => (pqExtractMin_sameStore h).bind fun b s t h => ?_
  rw [weightOf_congr h.node, weightOf_congr h.node]
  exact (allocNode_sameStore h _).bind fun i s t h => .ok () (pqInsert_sameStore h i)

theorem mergeLoop_sameStore (n : Nat) (h : SameStore P s t) :
    Flow.InStep (SameStore P) (mergeLoop n s) (mergeLoop n t) := by
  induction n generalizing s t with
  | zero => exact .ok () h
  | succ n ih =>
    simp only [mergeLoop, h.pq]
    split
    · exact .ok () h
    · exact (mergeStep_sameStore h).bind fun _ _ _ h => ih h

theorem seedLeaves_sameStore (ft : Table Symbol Word32) (h : SameStore P s t) :
    Flow.InStep (SameStore P) (seedLeaves ft s) (seedLeaves ft t) := by
  induction ft generalizing s t with
  | nil => exact .ok () h
  | cons e rest ih =>
    simp only [seedLeaves]
    split
    · exact ih h
    · exact (allocNode_sameStore h _).bind fun i _ _ h => ih (pqInsert_sameStore h i)

/-- LEAFCNT is read off NCOUNT, and ROOT off the queue. -/
theorem buildTree_sameTree (h : SameStore P s t) : Flow.InStep SameTree (buildTree s) (buildTree t) := by
  have hleaf : SameStore Eq { s with leafCnt := s.nCount.setWidth 32 } { t with leafCnt := t.nCount.setWidth 32 } :=
    ⟨h.node, h.nCount, h.pq, congrArg (BitVec.setWidth 32) h.nCount⟩
  unfold buildTree
  simp only [h.nCount, h.pq] at hleaf ⊢
  split
  · exact .ok () ⟨h.node, rfl, rfl, rfl⟩
  · refine (mergeLoop_sameStore _ hleaf).bind fun _ _ _ h => (pqExtractMin_sameStore h).bind fun r _ _ h => ?_
    exact .ok () ⟨h.node, h.nCount, h.leafCnt, rfl⟩

theorem buildUnit_sameTree (h : s.ft = t.ft) : Flow.InStep SameTree (buildUnit s) (buildUnit t) := by
  have hseed : Flow.InStep (SameStore fun _ _ => True) (seedLeaves s.ft (buildStart s))
      (seedLeaves t.ft (buildStart t)) :=
    h ▸ seedLeaves_sameStore s.ft ⟨rfl, rfl, rfl, trivial⟩
  refine (hseed.bind fun _ s t h => (buildTree_sameTree h).bind (Q := SameTree) fun _ s t h => .ok () ?_).atEnd ?_
  · exact ⟨h.node, h.nCount, h.leafCnt, h.root⟩
  · exact fun s t h => ⟨h.node, h.nCount, h.leafCnt, h.root⟩

end

/-- Settles O28: run side by side on equal tables, the two BUILDs work on equal stores throughout. -/
theorem buildDependsOnTheTableAlone : Obligations.BuildDependsOnTheTableAlone := by
  intro s₁ s₂ t₁ hft hbuild
  rw [exec_build] at hbuild ⊢
  obtain ⟨t₂, hbuild', h⟩ := (buildUnit_sameTree hft).outcome_next hbuild
  exact ⟨t₂, hbuild', h.node, h.nCount, h.leafCnt, h.root⟩

end Sys2Proof.Machine
end

section
/-! SUPPORT. TreeSerializer (spec/43_tree_serializer.md): TREE_RD on a header without leaves; with it the statements of
this unit. -/

namespace Sys2Proof.Machine

open Sys2Proof

/-! ### TREE_RD of the empty tree (R125) -/

/-- Setting TRV sets it, whatever the other flags. -/
@[simp] theorem setFlags_trvMask_trv (s : State) : (setFlags trvMask s).trv = true := by
  simp [State.trv, setFlags, trvMask]

/-- TRV is FLAGS bit 1, and the release of the stack leaves FLAGS alone. -/
@[simp] theorem releaseStack_trv (s : State) : (releaseStack s).trv = s.trv := rfl

theorem exec_treeRd (s : State) : exec .treeRd s = (treeRdUnit s).outcome := rfl

/-- A required condition that holds has no effect. -/
theorem require_of_true {c : Bool} (h : c = true) (g : Opcode) (s : State) : require c g s = .ok () s := if_pos h

/-- TREE_RD with a header accepted and LEAFCNT = 0: no token loop, ROOT = NONE and TRV set at once (R125). -/
theorem exec_treeRd_of_no_leaf {s : State} (hheader : s.hrv = true) (hleaf : s.leafCnt = 0#32) :
    exec .treeRd s = .next (releaseStack (setFlags trvMask { treeRdStart s with root := none })) := by
  have hstart : (treeRdStart s).leafCnt = 0#32 := hleaf
  simp only [exec_treeRd, treeRdUnit, require_of_true hheader, bind_ok, if_pos hstart, atEnd_ok, outcome_ok]

/-- Settles O39: without leaves the command is its start and its end, and neither makes a stream call. -/
theorem treeRdOfNoLeafReadsNothing : Obligations.TreeRdOfNoLeafReadsNothing := by
  intro s hheader hleaf
  exact ⟨_, exec_treeRd_of_no_leaf hheader hleaf, rfl, rfl, by simp, rfl, rfl, rfl⟩

end Sys2Proof.Machine
end

section
/-! SUPPORT. Whole passes over IN_BYTES on quiet streams (spec/40_frequency_analyzer.md R81, spec/44_encoder.md R131):
the loops of ANALYZE and ENC_BODY as functions of the bytes ahead. -/

namespace Sys2Proof.Machine

open Sys2Proof

/-! ### The bytes ahead -/

/-- The bytes of IN_BYTES from the read position on. -/
def State.bytesAhead (s : State) : List Byte := s.inBytes.bytes.drop s.inBytes.pos

/-- The state after `m` bytes of IN_BYTES and `k` answers of the collaborators are consumed. -/
def bytesRead (m k : Nat) (s : State) : State := seekBytes (s.inBytes.pos + m) (setIo (s.ioAnswers.drop k) s)

@[simp] theorem bytesRead_zero (s : State) : bytesRead 0 0 s = s := rfl

@[simp] theorem bytesRead_bytesRead (m k m' k' : Nat) (s : State) :
    bytesRead m' k' (bytesRead m k s) = bytesRead (m + m') (k + k') s := by
  simp [bytesRead, Nat.add_assoc]

theorem quiet_bytesRead {s : State} (h : s.quiet) (m k : Nat) : (bytesRead m k s).quiet := quiet_setIo_drop h k s

theorem bytesAhead_bytesRead {s : State} {X rest : List Byte} (hb : s.bytesAhead = X ++ rest) (k : Nat) :
    (bytesRead X.length k s).bytesAhead = rest := by
  simp only [State.bytesAhead] at hb
  simp [State.bytesAhead, bytesRead, ← List.drop_drop, hb]

/-- `RdByte()` on quiet streams takes the first byte ahead. -/
theorem rdByte_of_cons {g : Opcode} {s : State} {b : Byte} {rest : List Byte} (h : s.quiet)
    (hb : s.bytesAhead = b :: rest) : rdByte g s = .ok (some b) (bytesRead 1 1 s) := by
  have hget : s.inBytes.bytes[s.inBytes.pos]? = some b := by
    rw [← List.head?_drop, show s.inBytes.bytes.drop s.inBytes.pos = b :: rest from hb, List.head?_cons]
  rw [rdByte_quiet h, hget]
  rfl

/-- With no byte ahead it answers EOS. -/
theorem rdByte_of_nil {g : Opcode} {s : State} (h : s.quiet) (hb : s.bytesAhead = []) :
    rdByte g s = .ok none (bytesRead 0 1 s) := by
  have hget : s.inBytes.bytes[s.inBytes.pos]? = none := by
    rw [← List.head?_drop, show s.inBytes.bytes.drop s.inBytes.pos = [] from hb, List.head?_nil]
  rw [rdByte_quiet h, hget]
  rfl

/-- The second `RdByte()` of a pass. -/
theorem rdByte_of_cons_cons {g : Opcode} {s : State} {b c : Byte} {rest : List Byte} (h : s.quiet)
    (hb : s.bytesAhead = b :: c :: rest) : rdByte g (bytesRead 1 1 s) = .ok (some c) (bytesRead 2 2 s) := by
  have hc : (bytesRead 1 1 s).bytesAhead = c :: rest := bytesAhead_bytesRead (X := [b]) hb 1
  rw [rdByte_of_cons (quiet_bytesRead h 1 1) hc, bytesRead_bytesRead]

/-- The second `RdByte()` of a pass that has one byte only. -/
theorem rdByte_of_singleton {g : Opcode} {s : State} {b : Byte} (h : s.quiet) (hb : s.bytesAhead = [b]) :
    rdByte g (bytesRead 1 1 s) = .ok none (bytesRead 1 2 s) := by
  have hnil : (bytesRead 1 1 s).bytesAhead = [] := bytesAhead_bytesRead (X := [b]) hb 1
  rw [rdByte_of_nil (quiet_bytesRead h 1 1) hnil, bytesRead_bytesRead]

/-- After a Rewind the whole pass is ahead. -/
@[simp] theorem bytesAhead_rewind (s : State) : (rewind s).bytesAhead = s.nextPass := by
  simp [State.bytesAhead, State.nextPass]

/-- What a pass delivers depends on IN_BYTES alone, and not on its position. -/
theorem nextPass_eq_headD (s : State) : s.nextPass = s.inBytes.passes.headD s.inBytes.bytes := by
  unfold State.nextPass rewind
  cases s.inBytes.passes <;> rfl

/-- A Rewind moves IN_BYTES alone. -/
theorem rewind_frame (s : State) : rewind s = { s with inBytes := (rewind s).inBytes } := by
  unfold rewind
  split <;> rfl

theorem rewind_inBytes_congr {s t : State} (h : s.inBytes = t.inBytes) : (rewind s).inBytes = (rewind t).inBytes := by
  unfold rewind
  rw [h]
  cases t.inBytes.passes <;> simp [h]

/-! ### The symbols of the input (R80) -/

theorem length_symbols (X : List Byte) : (symbols X).length = (X.length + 1) / 2 := by
  induction X using symbols.induct with
  | case1 => rfl
  | case2 b => simp [symbols]
  | case3 b1 b2 rest ih => simp only [symbols, List.length_cons, ih]; omega

/-! ### ANALYZE (R81) -/

/-- TOTAL raised by `m`. -/
def addTotal (m : Nat) (s : State) : State := { s with total := s.total + BitVec.ofNat 32 m }

/-- The counting of ANALYZE, one symbol after the other. -/
def bumpAll (xs : List Symbol) (s : State) : State := xs.foldl (fun s x => bumpFt x s) s

@[simp] theorem addTotal_zero (s : State) : addTotal 0 s = s := by simp [addTotal]

@[simp] theorem addTotal_addTotal (m n : Nat) (s : State) : addTotal n (addTotal m s) = addTotal (m + n) s := by
  simp [addTotal, BitVec.add_assoc, BitVec.ofNat_add]

@[simp] theorem bytesRead_addTotal (m k n : Nat) (s : State) :
    bytesRead m k (addTotal n s) = addTotal n (bytesRead m k s) := rfl

/-- Counting symbols, counting bytes and reading them do not touch each other's state. -/
theorem bumpAll_addTotal_bytesRead (xs : List Symbol) (n m k : Nat) (s : State) :
    bumpAll xs (addTotal n (bytesRead m k s)) = addTotal n (bytesRead m k (bumpAll xs s)) := by
  induction xs generalizing s with
  | nil => rfl
  | cons x xs ih => exact ih (bumpFt x s)

/-- A byte is counted as long as TOTAL is below its greatest value. -/
theorem countByte_of_lt {s : State} (h : s.total.toNat < 2 ^ 32 - 1) : countByte s = .ok () (addTotal 1 s) := by
  have hne : s.total ≠ 0xFFFFFFFF#32 := fun e => by simp [e] at h
  rw [countByte, if_neg hne]
  rfl

theorem toNat_total_addTotal {m : Nat} {s : State} (h : s.total.toNat + m ≤ 2 ^ 32 - 1) :
    (addTotal m s).total.toNat = s.total.toNat + m := by
  simp only [addTotal, BitVec.toNat_add, BitVec.toNat_ofNat]
  omega

/-- The loop of ANALYZE counts the bytes ahead, if TOTAL has room for them. -/
theorem analyzeLoop_quiet (X : List Byte) {n : Nat} {s : State} (hn : X.length < n) (h : s.quiet)
    (hX : s.bytesAhead = X) (htotal : s.total.toNat + X.length ≤ 2 ^ 32 - 1) :
    ∃ k, analyzeLoop n s = .ok () (addTotal X.length (bytesRead X.length k (bumpAll (symbols X) s))) := by
  obtain ⟨n, rfl⟩ : ∃ m, n = m + 1 := ⟨n - 1, by omega⟩
  induction X using symbols.induct generalizing n s with
  | case1 =>
    refine ⟨1, ?_⟩
    rw [analyzeLoop, rdByte_of_nil h hX, bind_ok]
    simp [symbols, bumpAll]
  | case2 b =>
    simp only [List.length_singleton] at htotal
    have hcount : countByte (bytesRead 1 1 s) = .ok () (addTotal 1 (bytesRead 1 1 s)) :=
      countByte_of_lt (show s.total.toNat < 2 ^ 32 - 1 by omega)
    have hend : rdByte 0x2#4 (addTotal 1 (bytesRead 1 1 s)) = .ok none (addTotal 1 (bytesRead 1 2 s)) :=
      rdByte_of_singleton (s := addTotal 1 s) h hX
    refine ⟨2, ?_⟩
    simp only [analyzeLoop, rdByte_of_cons h hX, hcount, hend, bind_ok]
    exact congrArg (Flow.ok ()) (bumpAll_addTotal_bytesRead [symbolOf b 0#8] 1 1 2 s)
  | case3 b1 b2 rest ih =>
    simp only [List.length_cons] at htotal hn
    have htotal1 : (addTotal 1 s).total.toNat = s.total.toNat + 1 := toNat_total_addTotal (by omega)
    have htotal2 : (addTotal 2 s).total.toNat = s.total.toNat + 2 := toNat_total_addTotal (by omega)
    have hcount1 : countByte (bytesRead 1 1 s) = .ok () (addTotal 1 (bytesRead 1 1 s)) :=
      countByte_of_lt (show s.total.toNat < 2 ^ 32 - 1 by omega)
    have hread2 : rdByte 0x2#4 (addTotal 1 (bytesRead 1 1 s)) = .ok (some b2) (addTotal 1 (bytesRead 2 2 s)) :=
      rdByte_of_cons_cons (s := addTotal 1 s) h hX
    have hcount2 : countByte (addTotal 1 (bytesRead 2 2 s)) = .ok () (addTotal 2 (bytesRead 2 2 s)) := by
      have hlt : (addTotal 1 (bytesRead 2 2 s)).total.toNat < 2 ^ 32 - 1 :=
        show (addTotal 1 s).total.toNat < 2 ^ 32 - 1 by omega
      rw [countByte_of_lt hlt, addTotal_addTotal]
    obtain ⟨n, rfl⟩ : ∃ m, n = m + 1 := ⟨n - 1, by omega⟩
    obtain ⟨k, hk⟩ := ih (s := bumpFt (symbolOf b1 b2) (addTotal 2 (bytesRead 2 2 s))) (quiet_bytesRead h 2 2)
      (bytesAhead_bytesRead (X := [b1, b2]) (rest := rest) hX 2)
      (show (addTotal 2 s).total.toNat + rest.length ≤ _ by omega) n (by omega)
    refine ⟨2 + k, ?_⟩
    rw [analyzeLoop]
    simp only [rdByte_of_cons h hX, hcount1, hread2, hcount2, bind_ok, hk]
    have hswap := bumpAll_addTotal_bytesRead (symbolOf b1 b2 :: symbols rest) 2 2 2 s
    simp only [bumpAll, List.foldl_cons] at hswap
    simp only [bumpAll, symbols, List.foldl_cons, hswap, bytesRead_addTotal, bytesRead_bytesRead, addTotal_addTotal,
      List.length_cons, Nat.add_comm 2, Nat.add_assoc]

/-! ### What ANALYZE answers -/

/-- FT is in canonical form: its part of `Memory.wf`. -/
def ftWf (s : State) : Prop := Table.rising symRank s.ft = true ∧ ∀ e ∈ s.ft, e.2 ≠ 0#32

theorem ftWf_bumpFt (x : Symbol) {s : State} (h : ftWf s) : ftWf (bumpFt x s) := by
  have hwf : Memory.wf { State.reset with ft := s.ft } = true := (memory_wf_iff _).2 ⟨h.1, h.2, rfl, rfl, rfl⟩
  obtain ⟨hrising, hnonzero, -⟩ := (memory_wf_iff _).1 (writeFt_memory_wf x (readFt s x + 1#32) hwf)
  exact ⟨hrising, hnonzero⟩

theorem ftWf_bumpAll (xs : List Symbol) {s : State} (h : ftWf s) : ftWf (bumpAll xs s) := by
  induction xs generalizing s with
  | nil => exact h
  | cons x xs ih => exact ih (ftWf_bumpFt x h)

/-- Counting symbols writes FT alone. -/
theorem bumpAll_frame (xs : List Symbol) (s : State) : bumpAll xs s = { s with ft := (bumpAll xs s).ft } := by
  induction xs generalizing s with
  | nil => rfl
  | cons x xs ih => exact ih (bumpFt x s)

/-- As long as no count overflows, each symbol's count grows by the number of its positions. -/
theorem readFt_bumpAll (xs : List Symbol) {s : State} (h : ftWf s) (sym : Symbol)
    (hroom : (readFt s sym).toNat + xs.count sym < 2 ^ 32) :
    (readFt (bumpAll xs s) sym).toNat = (readFt s sym).toNat + xs.count sym := by
  induction xs generalizing s with
  | nil => rfl
  | cons x xs ih =>
    have hbump := ftWf_bumpFt x h
    by_cases hx : x = sym
    · subst hx
      rw [List.count_cons_self] at hroom ⊢
      have hread : (readFt (bumpFt x s) x).toNat = (readFt s x).toNat + 1 := by
        rw [bumpFt, readFt_writeFt_same _ _ _ h.1, BitVec.toNat_add, BitVec.toNat_ofNat]
        omega
      have hroomRest : (readFt (bumpFt x s) x).toNat + xs.count x < 2 ^ 32 := by omega
      calc
        (readFt (bumpAll (x :: xs) s) x).toNat = (readFt (bumpFt x s) x).toNat + xs.count x := ih hbump hroomRest
        _ = (readFt s x).toNat + (xs.count x + 1) := by omega
    · rw [List.count_cons_of_ne hx] at hroom ⊢
      have hread : readFt (bumpFt x s) sym = readFt s sym := readFt_writeFt_other s _ (Ne.symm hx)
      exact hread ▸ ih hbump (hread.symm ▸ hroom)

/-- ANALYZE on quiet streams (R81, the result stated as a function): TOTAL is the number of bytes, FT counts the
symbols, FAV alone is set, and only IN_BYTES moves. -/
theorem analyzeUnit_quiet {s : State} {X : List Byte} (h : s.quiet) (hX : s.nextPass = X)
    (hlen : X.length ≤ 2 ^ 32 - 1) :
    ∃ t, analyzeUnit s = .ok () t ∧ ftWf t ∧ (∀ sym, (readFt t sym).toNat = (symbols X).count sym) ∧ t.quiet ∧
      t = { s with
        flags := favMask, ft := t.ft, total := BitVec.ofNat 32 X.length, ioAnswers := t.ioAnswers
        inBytes := { (rewind s).inBytes with pos := X.length } } := by
  have hin : (analyzeStart s).inBytes = (rewind s).inBytes := rewind_inBytes_congr rfl
  have hbytes : (analyzeStart s).inBytes.bytes = X := (congrArg ByteSource.bytes hin).trans hX
  have hframe : analyzeStart s = { s with flags := 0#5, ft := [], total := 0#32, inBytes := (rewind s).inBytes } :=
    hin ▸ rewind_frame _
  have hquiet : (analyzeStart s).quiet := by rw [hframe]; exact h
  obtain ⟨k, hk⟩ := analyzeLoop_quiet X (n := (analyzeStart s).inBytes.bytes.length + 1) (s := analyzeStart s)
    (by rw [hbytes]; omega) hquiet ((bytesAhead_rewind _).trans hbytes) (by rw [hframe]; simpa using hlen)
  have hwf : ftWf (analyzeStart s) := by rw [hframe]; exact ⟨rfl, by simp⟩
  have hzero : ∀ sym, readFt (analyzeStart s) sym = 0#32 := fun sym => by rw [hframe]; rfl
  have hrun : analyzeUnit s = .ok () (setFlags favMask (addTotal X.length (bytesRead X.length k
      (bumpAll (symbols X) (analyzeStart s))))) := by
    simp only [analyzeUnit, hk, bind_ok]
  refine ⟨_, hrun, ftWf_bumpAll (symbols X) hwf, fun sym => ?_, ?_, ?_⟩
  · have hcount : (symbols X).count sym ≤ (X.length + 1) / 2 := length_symbols X ▸ List.count_le_length
    have hread := readFt_bumpAll (symbols X) hwf sym (by rw [hzero, BitVec.toNat_zero]; omega)
    rwa [hzero, BitVec.toNat_zero, Nat.zero_add] at hread
  · rw [bumpAll_frame]
    exact quiet_bytesRead hquiet X.length k
  · rw [bumpAll_frame, hframe]
    simp [addTotal, bytesRead, setFlags, favMask]

/-! ### ENC_BODY (R131) -/

@[simp] theorem bytesRead_appendBits (m k : Nat) (bs : Bits) (s : State) :
    bytesRead m k (appendBits bs s) = appendBits bs (bytesRead m k s) := rfl

/-- Code words are about CT alone. -/
theorem codeOf_congr {s t : State} (h : t.ct = s.ct) : t.codeOf = s.codeOf := by
  funext sym
  simp only [State.codeOf, readCt, h]

/-- A symbol that CT knows goes out as its code word. -/
theorem emitCode_quiet {sym : Symbol} {s : State} (h : s.quiet) (hct : readCt s sym ≠ none) :
    ∃ k, emitCode sym s = .ok () (appendBits (s.codeOf sym) (bytesRead 0 k s)) := by
  obtain ⟨p, hp⟩ := Option.ne_none_iff_exists'.1 hct
  refine ⟨p.length, ?_⟩
  simp only [emitCode, State.codeOf, hp, Option.getD_some, wrPath_quiet p h]
  rfl

/-- The loop of ENC_BODY emits the code words of the symbols ahead, if CT knows them all. -/
theorem encBodyLoop_quiet (X : List Byte) {n : Nat} {s : State} (hn : X.length < n) (h : s.quiet)
    (hX : s.bytesAhead = X) (hct : ∀ sym ∈ symbols X, readCt s sym ≠ none) :
    ∃ k, encBodyLoop n s = .ok () (appendBits ((symbols X).flatMap s.codeOf) (bytesRead X.length k s)) := by
  obtain ⟨n, rfl⟩ : ∃ m, n = m + 1 := ⟨n - 1, by omega⟩
  induction X using symbols.induct generalizing n s with
  | case1 =>
    refine ⟨1, ?_⟩
    simp only [encBodyLoop, rdByte_of_nil h hX, bind_ok]
    simp [symbols]
  | case2 b =>
    obtain ⟨k, hk⟩ := emitCode_quiet (sym := symbolOf b 0#8) (quiet_bytesRead h 1 2) (hct _ (by simp [symbols]))
    refine ⟨2 + k, ?_⟩
    simp only [encBodyLoop, rdByte_of_cons h hX, rdByte_of_singleton h hX, hk, bind_ok, bytesRead_bytesRead, symbols,
      List.flatMap_singleton]
    rfl
  | case3 b1 b2 rest ih =>
    simp only [List.length_cons] at hn
    simp only [symbols, List.forall_mem_cons] at hct
    obtain ⟨hfirst, hrest⟩ := hct
    obtain ⟨j, hj⟩ := emitCode_quiet (sym := symbolOf b1 b2) (quiet_bytesRead h 2 2) hfirst
    rw [bytesRead_bytesRead] at hj
    obtain ⟨n, rfl⟩ : ∃ m, n = m + 1 := ⟨n - 1, by omega⟩
    obtain ⟨k, hk⟩ := ih (s := appendBits ((bytesRead 2 2 s).codeOf (symbolOf b1 b2)) (bytesRead 2 (2 + j) s))
      (quiet_bytesRead h 2 (2 + j)) (bytesAhead_bytesRead (X := [b1, b2]) (rest := rest) hX (2 + j)) hrest n (by omega)
    refine ⟨2 + j + k, ?_⟩
    rw [encBodyLoop]
    simp only [rdByte_of_cons h hX, rdByte_of_cons_cons h hX, hj, bind_ok, Nat.add_zero, hk, bytesRead_appendBits,
      bytesRead_bytesRead, appendBits_appendBits, symbols, List.flatMap_cons, List.length_cons,
      Nat.add_comm 2 rest.length]
    rfl

/-- ENC_BODY on quiet streams (R131, the result stated as a function): the code words of the symbols are appended, no
register and no flag changes. -/
theorem encBodyUnit_quiet {s : State} {X : List Byte} (hfav : s.fav = true) (hdev : s.dev = true) (h : s.quiet)
    (hX : s.nextPass = X) (hct : ∀ sym ∈ symbols X, readCt s sym ≠ none) :
    ∃ t, encBodyUnit s = .ok () t ∧ t.quiet ∧
      t = { s with
        outBits := s.outBits ++ (symbols X).flatMap s.codeOf, ioAnswers := t.ioAnswers
        inBytes := { (rewind s).inBytes with pos := X.length } } := by
  have hquiet : (rewind s).quiet := by rw [rewind_frame]; exact h
  have hct' : ∀ sym ∈ symbols X, readCt (rewind s) sym ≠ none := by rw [rewind_frame]; exact hct
  obtain ⟨k, hk⟩ := encBodyLoop_quiet X (n := (rewind s).inBytes.bytes.length + 1) (s := rewind s)
    (by rw [show (rewind s).inBytes.bytes = X from hX]; omega) hquiet ((bytesAhead_rewind s).trans hX) hct'
  rw [codeOf_congr (rewind_ct s)] at hk
  have hrun : encBodyUnit s =
      .ok () (appendBits ((symbols X).flatMap s.codeOf) (bytesRead X.length k (rewind s))) := by
    simp only [encBodyUnit, hfav, hdev, Bool.and_self, require_of_true, bind_ok, hk]
  refine ⟨_, hrun, quiet_bytesRead hquiet X.length k, ?_⟩
  rw [rewind_frame]
  simp [appendBits, bytesRead]

end Sys2Proof.Machine
end

section
/-! SUPPORT. The tree and its dictionary on their way out (spec/42_dictionary_codec.md R106, spec/43_tree_serializer.md
R117, spec/44_encoder.md R130): DICT_ENC, HDR_WR and TREE_WR as functions of the state's tree, also the empty one. -/

namespace Sys2Proof.Machine

open Sys2Proof

/-! ### The state's tree, which may be empty (41_tree_builder.md R98) -/

/-- The current tree of the state is this one; `none` is the empty tree. -/
def State.holds (s : State) : Option CodeTree → Prop
  | none => s.root = none
  | some T => s.hasTree T = true

/-- The number of leaves, none for the empty tree. -/
def leavesOf (o : Option CodeTree) : Nat := o.elim 0 CodeTree.leaves

/-- The code words, none for the empty tree. -/
def codesOf (o : Option CodeTree) : List (Symbol × Bits) := o.elim [] CodeTree.codes

/-- The symbols at the leaves, none for the empty tree. -/
def symsOf (o : Option CodeTree) : List Symbol := o.elim [] CodeTree.syms

/-- The bits of the serialized tree, none for the empty tree. -/
def treeBitsOf (o : Option CodeTree) : Bits := o.elim [] CodeTree.tokenBits

theorem readNode_congr {s t : State} (h : t.node = s.node) (i : NodeIdx) : readNode t i = readNode s i := by
  simp only [readNode, h]

/-- Holding a tree depends on ROOT and NODE alone. -/
theorem holds_congr {s t : State} {o : Option CodeTree} (hroot : t.root = s.root) (hnode : t.node = s.node) :
    t.holds o ↔ s.holds o := by
  cases o with
  | none => simp only [State.holds, hroot]
  | some T => simp only [State.holds, State.hasTree, hroot, CodeTree.standsAt_congr (readNode_congr hnode)]

theorem treePaths_of_holds {s : State} {o : Option CodeTree} (h : s.holds o) (hn : leavesOf o ≤ Config.walkDepth) :
    treePaths s = some (codesOf o) := by
  cases o with
  | none => rw [treePaths, show s.root = none from h]; rfl
  | some T => exact treePaths_of_hasTree h hn

theorem treeTokens_of_holds {s : State} {o : Option CodeTree} (h : s.holds o) (hn : leavesOf o ≤ Config.walkDepth) :
    ∃ ts, treeTokens s = some ts ∧ ts.flatMap encodeToken = treeBitsOf o := by
  cases o with
  | none => exact ⟨[], by rw [treeTokens, show s.root = none from h], rfl⟩
  | some T => exact ⟨T.tokens, treeTokens_of_hasTree h hn, rfl⟩

/-! ### Tables filled entry by entry -/

section

variable {σ γ κ α : Type} [BEq κ] [LawfulBEq κ] {key : γ → κ} {val : γ → α} {write : σ → γ → σ}
  {read : σ → κ → Option α}

/-- After writing entries one by one, a key reads as its last entry says, or as before. -/
theorem read_foldl_write (hsame : ∀ s e, read (write s e) (key e) = some (val e))
    (hother : ∀ s e k, k ≠ key e → read (write s e) k = read s k) (es : List γ) (s : σ) (k : κ) :
    read (es.foldl write s) k = ((es.reverse.find? fun e => key e == k).map val).or (read s k) := by
  induction es using List.reverseRecOn with
  | nil => rfl
  | append_singleton es e ih =>
    rw [List.foldl_append, List.reverse_append, List.reverse_singleton, List.singleton_append]
    by_cases he : key e = k
    · rw [List.find?_cons_of_pos (by simpa using he), ← he]
      exact hsame _ e
    · rw [List.find?_cons_of_neg (by simpa using he), ← ih]
      exact hother _ e k (Ne.symm he)

/-- The last entry of a key that has one. -/
theorem exists_find?_reverse {es : List γ} {k : κ} (h : k ∈ es.map key) :
    ∃ d ∈ es, es.reverse.find? (fun e => key e == k) = some d ∧ key d = k := by
  obtain ⟨e, he, rfl⟩ := List.mem_map.1 h
  have hsome : (es.reverse.find? fun d => key d == key e).isSome = true :=
    List.find?_isSome.2 ⟨e, List.mem_reverse.2 he, beq_self_eq_true (key e)⟩
  obtain ⟨d, hd⟩ := Option.isSome_iff_exists.1 hsome
  exact ⟨d, List.mem_reverse.1 (List.mem_of_find?_eq_some hd), hd, by simpa using List.find?_some hd⟩

end

/-! ### DICT_ENC (R106) -/

/-- Filling CT writes CT alone. -/
theorem fillCt_frame (ps : List (Symbol × Bits)) (s : State) : fillCt ps s = { s with ct := (fillCt ps s).ct } := by
  induction ps generalizing s with
  | nil => rfl
  | cons e ps ih => exact ih (writeCt e.1 e.2 s)

/-- After filling CT a symbol has the path of its last pair (R110). -/
theorem readCt_fillCt (ps : List (Symbol × Bits)) (s : State) (sym : Symbol) :
    readCt (fillCt ps s) sym = ((ps.reverse.find? fun e => e.1 == sym).map fun e => e.2).or (readCt s sym) :=
  read_foldl_write (fun s e => readCt_writeCt_same s e.1 e.2) (fun s e _ h => readCt_writeCt_other s e.2 h) ps s sym

/-- DICT_ENC on a tree (R106): CT is filled with its code words and DEV is set. -/
theorem dictEncUnit_of_holds {s : State} {o : Option CodeTree} (htrv : s.trv = true) (ho : s.holds o)
    (hn : leavesOf o ≤ Config.walkDepth) :
    ∃ t, dictEncUnit s = .ok () t ∧
      (∀ sym, readCt t sym = ((codesOf o).reverse.find? fun e => e.1 == sym).map fun e => e.2) ∧
      t = { s with ct := t.ct, flags := s.flags &&& ~~~devMask ||| devMask } := by
  let s' : State := { clearFlags devMask s with ct := [] }
  have hpaths : treePaths s' = some (codesOf o) :=
    treePaths_of_holds ((holds_congr (s := s) (t := s') rfl rfl).2 ho) hn
  have hrun : dictEncUnit s = .ok () (setFlags devMask (fillCt (codesOf o) s')) := by
    simp only [dictEncUnit, require_of_true htrv, bind_ok, pathsOf]
    rw [hpaths, bind_ok]
  refine ⟨_, hrun, fun sym => ?_, ?_⟩
  · exact (readCt_fillCt (codesOf o) s' sym).trans (Option.or_none)
  · rw [fillCt_frame]
    rfl

/-! ### HDR_WR and TREE_WR (R130, R117) -/

theorem wrBits_bytesRead {g : Opcode} {n : Nat} {v : BitVec n} {s : State} (h : s.quiet) :
    wrBits g v s = .ok () (appendBits (fieldBits v) (bytesRead 0 1 s)) := wrBits_quiet h

/-- A field written after other bits of the same command. -/
theorem wrBits_appendBits_bytesRead {g : Opcode} {n : Nat} {v : BitVec n} {s : State} (h : s.quiet) (bs : Bits)
    (k : Nat) :
    wrBits g v (appendBits bs (bytesRead 0 k s)) = .ok () (appendBits (bs ++ fieldBits v) (bytesRead 0 (k + 1) s)) := by
  have hq : (appendBits bs (bytesRead 0 k s)).quiet := quiet_bytesRead h 0 k
  rw [wrBits_bytesRead hq, bytesRead_appendBits, bytesRead_bytesRead, appendBits_appendBits]

theorem hdrWrUnit_quiet {s : State} (hfav : s.fav = true) (htrv : s.trv = true) (h : s.quiet) :
    hdrWrUnit s = .ok () (appendBits (fieldBits s.total ++ fieldBits s.leafCnt) (bytesRead 0 2 s)) := by
  simp only [hdrWrUnit, hfav, htrv, Bool.and_self, require_of_true, bind_ok, wrBits_bytesRead h]
  exact wrBits_appendBits_bytesRead h _ 1

theorem writeToken_quiet (t : Token) {s : State} (h : s.quiet) :
    ∃ k, writeToken t s = .ok () (appendBits (encodeToken t) (bytesRead 0 k s)) := by
  cases t with
  | leaf sym =>
    refine ⟨2, ?_⟩
    rw [writeToken, wrBits_bytesRead h, bind_ok, wrBits_appendBits_bytesRead h]
    rfl
  | merge => exact ⟨1, wrBits_bytesRead h⟩

theorem writeTokens_quiet (ts : List Token) {s : State} (h : s.quiet) :
    ∃ k, writeTokens ts s = .ok () (appendBits (ts.flatMap encodeToken) (bytesRead 0 k s)) := by
  induction ts generalizing s with
  | nil => exact ⟨0, by simp [writeTokens]⟩
  | cons t ts ih =>
    obtain ⟨j, hj⟩ := writeToken_quiet t h
    obtain ⟨k, hk⟩ := ih (s := appendBits (encodeToken t) (bytesRead 0 j s)) (quiet_bytesRead h 0 j)
    refine ⟨j + k, ?_⟩
    simp only [writeTokens, hj, bind_ok, hk, bytesRead_appendBits, bytesRead_bytesRead, appendBits_appendBits,
      List.flatMap_cons]

/-- TREE_WR on quiet streams (R117): the bits of the tree are appended, no register and no flag changes. -/
theorem treeWrUnit_quiet {s : State} {o : Option CodeTree} (htrv : s.trv = true) (h : s.quiet) (ho : s.holds o)
    (hn : leavesOf o ≤ Config.walkDepth) :
    ∃ k, treeWrUnit s = .ok () (appendBits (treeBitsOf o) (bytesRead 0 k s)) := by
  obtain ⟨ts, hts, hbits⟩ := treeTokens_of_holds ho hn
  obtain ⟨k, hk⟩ := writeTokens_quiet ts h
  exact ⟨k, by simp only [treeWrUnit, require_of_true htrv, bind_ok, hts, hk, hbits]⟩

theorem closeOut_quiet {g : Opcode} {s : State} (h : s.quiet) :
    closeOut g s = .ok () (appendBits (padding s.outBits.length) (bytesRead 0 1 s)) := by
  rw [closeOut, ioCall_quiet h]
  rfl

end Sys2Proof.Machine
end

section
/-! SUPPORT. Trees in a growing node store (spec/10_state.md R20, R21), and BUILD of any table (spec/41_tree_builder.md
R96): one tree whose leaves are the entries of FT. -/

namespace Sys2Proof.Machine

open Sys2Proof

/-! ### A growing node store -/

/-- The state after a node is created. -/
def stored (n : Node) (s : State) : State :=
  { s with node := Table.put idxRank s.node (s.nCount.setWidth 17) n, nCount := s.nCount + 1#18 }

theorem allocNode_of_room (n : Node) {s : State} (h : s.nCount.toNat < Config.maxNodes) :
    allocNode n s = .ok (s.nCount.setWidth 17) (stored n s) := if_pos h

theorem nCount_stored (n : Node) {s : State} (h : s.nCount.toNat < Config.maxNodes) :
    (stored n s).nCount.toNat = s.nCount.toNat + 1 := by
  simp only [Config.maxNodes] at h
  simp only [stored, BitVec.toNat_add, BitVec.toNat_ofNat]
  omega

theorem readNode_stored_same (n : Node) (s : State) : readNode (stored n s) (s.nCount.setWidth 17) = n := by
  simp [readNode, stored, find_put_same]

/-- `t` has the nodes in use of `s`, and perhaps more. -/
structure Grown (s t : State) : Prop where
  nCount : s.nCount.toNat ≤ t.nCount.toNat
  read : ∀ j : NodeIdx, j.toNat < s.nCount.toNat → readNode t j = readNode s j

theorem Grown.trans {s t u : State} (h : Grown s t) (h' : Grown t u) : Grown s u :=
  ⟨h.nCount.trans h'.nCount, fun j hj => (h'.read j (hj.trans_le h.nCount)).trans (h.read j hj)⟩

theorem Grown.of_eq {s t : State} (hnode : t.node = s.node) (hcount : t.nCount = s.nCount) : Grown s t :=
  ⟨hcount ▸ le_rfl, fun j _ => readNode_congr hnode j⟩

theorem grown_stored (n : Node) {s : State} (h : s.nCount.toNat < Config.maxNodes) : Grown s (stored n s) := by
  refine ⟨nCount_stored n h ▸ Nat.le_succ _, fun j hj => ?_⟩
  have hne : j ≠ s.nCount.setWidth 17 := fun e => by rw [e, nextIdx_toNat _ h] at hj; omega
  simp only [readNode, stored, find_put_other idxRank _ _ _ _ (mt idxRank_inj.1 hne)]

/-- Node i is the root of a copy of the tree, made of nodes in use. -/
def CodeTree.standsIn (s : State) : CodeTree → NodeIdx → Prop
  | .leaf sym, i => i.toNat < s.nCount.toNat ∧ ∃ w, readNode s i = .leaf sym w
  | .node l r, i =>
    i.toNat < s.nCount.toNat ∧ ∃ w a b, readNode s i = .internal w a b ∧ l.standsIn s a ∧ r.standsIn s b

theorem CodeTree.standsAt_of_standsIn {s : State} {T : CodeTree} {i : NodeIdx} (h : T.standsIn s i) :
    T.standsAt s i = true := by
  induction T generalizing i with
  | leaf sym => exact CodeTree.standsAt_leaf.2 h.2
  | node l r hl hr =>
    obtain ⟨-, w, a, b, hread, ha, hb⟩ := h
    exact CodeTree.standsAt_node.2 ⟨w, a, b, hread, hl ha, hr hb⟩

/-- A tree made of nodes in use stays where it is when nodes are created. -/
theorem CodeTree.standsIn_of_grown {s t : State} (hg : Grown s t) {T : CodeTree} {i : NodeIdx} (h : T.standsIn s i) :
    T.standsIn t i := by
  induction T generalizing i with
  | leaf sym =>
    obtain ⟨hi, w, hread⟩ := h
    exact ⟨hi.trans_le hg.nCount, w, (hg.read i hi).trans hread⟩
  | node l r hl hr =>
    obtain ⟨hi, w, a, b, hread, ha, hb⟩ := h
    exact ⟨hi.trans_le hg.nCount, w, a, b, (hg.read i hi).trans hread, hl ha, hr hb⟩

/-- A new leaf stands where it was stored. -/
theorem standsIn_stored_leaf (sym : Symbol) (w : Weight) {s : State} (h : s.nCount.toNat < Config.maxNodes) :
    (CodeTree.leaf sym).standsIn (stored (.leaf sym w) s) (s.nCount.setWidth 17) :=
  ⟨by rw [nCount_stored _ h, nextIdx_toNat _ h]; omega, w, readNode_stored_same _ s⟩

/-- A new internal node over two trees is the root of the tree of both. -/
theorem standsIn_stored_node {l r : CodeTree} {a b : NodeIdx} (w : Weight) {s : State}
    (h : s.nCount.toNat < Config.maxNodes) (ha : l.standsIn s a) (hb : r.standsIn s b) :
    (CodeTree.node l r).standsIn (stored (.internal w a b) s) (s.nCount.setWidth 17) := by
  have hg := grown_stored (.internal w a b) h
  exact ⟨by rw [nCount_stored _ h, nextIdx_toNat _ h]; omega, w, a, b, readNode_stored_same _ s,
    CodeTree.standsIn_of_grown hg ha, CodeTree.standsIn_of_grown hg hb⟩

/-! ### The queue as a forest (R96) -/

/-- The queued indices are the roots of these trees. -/
def Queued (s : State) (Ts : List CodeTree) : Prop := List.Forall₂ (fun i T => T.standsIn s i) s.pq Ts

/-- The symbols of a forest. -/
def forestSyms (Ts : List CodeTree) : List Symbol := Ts.flatMap CodeTree.syms

/-- Trees queued before nodes were created stand after it. -/
theorem Queued.grown {s t : State} {Ts : List CodeTree} (h : Queued s Ts) (hg : Grown s t) :
    List.Forall₂ (fun i T => T.standsIn t i) s.pq Ts :=
  List.Forall₂.imp (fun _ _ => CodeTree.standsIn_of_grown hg) h

/-- A queued index, with its tree, can be taken out. -/
theorem exists_perm_cons_of_mem {R : NodeIdx → CodeTree → Prop} {is : List NodeIdx} {Ts : List CodeTree} {i : NodeIdx}
    (h : List.Forall₂ R is Ts) (hi : i ∈ is) :
    ∃ T Us, R i T ∧ List.Forall₂ R (is.erase i) Us ∧ (T :: Us).Perm Ts := by
  obtain ⟨w, hw, hperm⟩ := List.perm_comp_forall₂ (List.perm_cons_erase hi).symm h
  obtain ⟨T, Us, hT, hUs, rfl⟩ := List.forall₂_cons_left_iff.1 hw
  exact ⟨T, Us, hT, hUs, hperm⟩

/-- Seeding queues one leaf for each entry. -/
theorem seedLeaves_of_room (ft : Table Symbol Word32) {s : State} {Ts : List CodeTree} (hft : ∀ e ∈ ft, e.2 ≠ 0#32)
    (hroom : s.nCount.toNat + ft.length ≤ Config.maxNodes) (hq : Queued s Ts) :
    ∃ t Us, seedLeaves ft s = .ok () t ∧ Queued t Us ∧
      (forestSyms Us).Perm (ft.map (fun e => e.1) ++ forestSyms Ts) ∧
      t.pq.length = s.pq.length + ft.length ∧ t.nCount.toNat = s.nCount.toNat + ft.length ∧
      t = { s with pq := t.pq, node := t.node, nCount := t.nCount } := by
  induction ft generalizing s Ts with
  | nil => exact ⟨s, Ts, rfl, hq, .rfl, rfl, rfl, rfl⟩
  | cons e rest ih =>
    obtain ⟨sym, count⟩ := e
    obtain ⟨hcount, hrest⟩ := List.forall_mem_cons.1 hft
    rw [List.length_cons] at hroom
    have hone : s.nCount.toNat < Config.maxNodes := by omega
    let n : Node := .leaf sym (count.setWidth 48)
    have hnext : (pqInsert (s.nCount.setWidth 17) (stored n s)).nCount.toNat = s.nCount.toNat + 1 :=
      nCount_stored n hone
    have hq' : Queued (pqInsert (s.nCount.setWidth 17) (stored n s)) (.leaf sym :: Ts) := by
      have hg : Grown (stored n s) (pqInsert (s.nCount.setWidth 17) (stored n s)) := Grown.of_eq rfl rfl
      exact .cons (CodeTree.standsIn_of_grown hg (standsIn_stored_leaf sym _ hone))
        (hq.grown ((grown_stored n hone).trans hg))
    obtain ⟨t, Us, hrun, hUs, hsyms, hlen, hncount, hframe⟩ := ih hrest (by omega) hq'
    refine ⟨t, Us, ?_, hUs, ?_, ?_, ?_, hframe⟩
    · rw [seedLeaves, if_neg hcount, allocNode_of_room _ hone, bind_ok]
      exact hrun
    · exact hsyms.trans List.perm_middle
    · rw [hlen, pqInsert_pq, List.length_cons, List.length_cons]
      exact (Nat.add_right_comm _ _ _)
    · rw [hncount, hnext, List.length_cons]
      omega

/-- A merge queues the tree of both instead of the two (R95). -/
theorem queued_merged {s : State} {Ts : List CodeTree} {a b : NodeIdx} (hroom : s.nCount.toNat < Config.maxNodes)
    (hq : Queued s Ts) (ha : a ∈ s.pq) (hb : b ∈ s.pq.erase a) :
    ∃ Us, Queued (merged a b s) Us ∧ (forestSyms Us).Perm (forestSyms Ts) := by
  obtain ⟨l, Us, hl, hUs, hperm⟩ := exists_perm_cons_of_mem hq ha
  obtain ⟨r, Vs, hr, hVs, hperm'⟩ := exists_perm_cons_of_mem hUs hb
  let n : Node := .internal (weightOf s a + weightOf s b) a b
  have hg : Grown (stored n s) (merged a b s) := Grown.of_eq rfl rfl
  refine ⟨.node l r :: Vs, ?_, ?_⟩
  · exact .cons (CodeTree.standsIn_of_grown hg (standsIn_stored_node _ hroom hl hr))
      (List.Forall₂.imp (fun _ _ => CodeTree.standsIn_of_grown ((grown_stored n hroom).trans hg)) hVs)
  · have hforest : (l :: r :: Vs).Perm Ts := (hperm'.cons l).trans hperm
    simpa [forestSyms, CodeTree.syms] using hforest.flatMap_right CodeTree.syms

/-- Merging ends with one tree of all symbols; each merge trades one place in the queue for one node. -/
theorem mergeLoop_of_room (n : Nat) {s : State} {Ts : List CodeTree} (hn : s.pq.length ≤ n + 1) (hpq : 1 ≤ s.pq.length)
    (hroom : s.nCount.toNat + s.pq.length ≤ Config.maxNodes + 1) (hq : Queued s Ts) :
    ∃ t Us, mergeLoop n s = .ok () t ∧ t.pq.length = 1 ∧ Queued t Us ∧ (forestSyms Us).Perm (forestSyms Ts) ∧
      t.nCount.toNat + 1 = s.nCount.toNat + s.pq.length ∧
      t = { s with pq := t.pq, node := t.node, nCount := t.nCount } := by
  induction n generalizing s Ts with
  | zero => exact ⟨s, Ts, rfl, by omega, hq, .rfl, by omega, rfl⟩
  | succ n ih =>
    by_cases hlen : s.pq.length ≤ 1
    · exact ⟨s, Ts, mergeLoop_of_length_le_one _ hlen, by omega, hq, .rfl, by omega, rfl⟩
    · have hone : s.nCount.toNat < Config.maxNodes := by omega
      obtain ⟨a, b, hmerge, ha, hb, -, -⟩ := mergeStep_of_two_le (by omega) hone
      have hpq' := length_pq_merged ha hb
      have hcount := nCount_merged hone a b
      obtain ⟨Us, hUs, hsyms⟩ := queued_merged hone hq ha hb
      obtain ⟨t, Vs, hrun, hlast, hVs, hsyms', hncount, hframe⟩ := ih (by omega) (by omega) (by omega) hUs
      refine ⟨t, Vs, ?_, hlast, hVs, hsyms'.trans hsyms, by omega, hframe⟩
      rw [mergeLoop, if_neg hlen, hmerge, bind_ok, hrun]

/-- Building the tree of a queue of leaves: the empty tree for no leaf, else one tree of all of them (R96, R98). -/
theorem buildTree_of_room {s : State} {Ts : List CodeTree} (hpq : s.pq.length = s.nCount.toNat)
    (hroom : s.nCount.toNat ≤ Config.maxLeaves) (hq : Queued s Ts) :
    ∃ t o, buildTree s = .ok () t ∧ t.holds o ∧ (symsOf o).Perm (forestSyms Ts) ∧
      t = { s with
        leafCnt := s.nCount.setWidth 32, pq := t.pq, node := t.node, nCount := t.nCount, root := t.root } := by
  by_cases hempty : s.nCount = 0#18
  · have hnil : s.pq = [] := List.length_eq_zero_iff.1 (by rw [hpq, hempty]; rfl)
    rw [Queued, hnil] at hq
    obtain rfl := List.forall₂_nil_left_iff.1 hq
    exact ⟨_, none, buildTree_of_empty hempty, rfl, .rfl, by rw [hempty]; rfl⟩
  · have hpos : s.nCount.toNat ≠ 0 := fun e => hempty (BitVec.eq_of_toNat_eq e)
    have hwide : (s.nCount.setWidth 32).toNat = s.nCount.toNat := by
      rw [BitVec.toNat_setWidth]
      exact Nat.mod_eq_of_lt (by omega)
    have hleaf : s.nCount.setWidth 32 ≠ 0#32 := fun e => hpos (hwide ▸ congrArg BitVec.toNat e)
    let s' : State := { s with leafCnt := s.nCount.setWidth 32 }
    have hq' : Queued s' Ts := hq.grown (t := s') (Grown.of_eq rfl rfl)
    simp only [Config.maxLeaves] at hroom
    obtain ⟨t, Us, hrun, hone, hUs, hsyms, -, hframe⟩ := mergeLoop_of_room (s := s') s'.pq.length (Nat.le_succ _)
      (show 1 ≤ s.pq.length by omega) (show s.nCount.toNat + s.pq.length ≤ 131071 + 1 by omega) hq'
    obtain ⟨r, hr⟩ := List.length_eq_one_iff.1 hone
    rw [Queued, hr] at hUs
    obtain ⟨T, rest, hT, hrest, rfl⟩ := List.forall₂_cons_left_iff.1 hUs
    obtain rfl := List.forall₂_nil_left_iff.1 hrest
    let t' : State := { t with pq := [], root := some r }
    have hT' : T.standsIn t' r := CodeTree.standsIn_of_grown (s := t) (t := t') (Grown.of_eq rfl rfl) hT
    refine ⟨t', some T, ?_, CodeTree.standsAt_of_standsIn hT', ?_, ?_⟩
    · simp only [buildTree, if_neg hleaf]
      rw [hrun, bind_ok, pqExtractMin_of_singleton hr, bind_ok]
    · simpa [forestSyms, symsOf] using hsyms
    · simp only [t']
      rw [hframe]

/-! ### BUILD (R96) -/

/-- The keys of a canonical table, by their places, in strictly rising order. -/
theorem pairwise_lt_of_rising {κ α : Type} (rank : κ → Nat) {t : Table κ α} (h : Table.rising rank t = true) :
    (t.map fun e => rank e.1).Pairwise (· < ·) := by
  induction t with
  | nil => exact .nil
  | cons e t ih =>
    obtain ⟨habove, hrising⟩ := (rising_cons rank e.1 e.2 t).1 h
    refine .cons (fun n hn => ?_) (ih hrising)
    obtain ⟨d, hd, rfl⟩ := List.mem_map.1 hn
    exact habove d hd

/-- FT has at most one entry for each of the 65536 symbols. -/
theorem length_ft_le {s : State} (h : ftWf s) : s.ft.length ≤ Config.maxLeaves := by
  have hnodup : (s.ft.map fun e => symRank e.1).Nodup := (pairwise_lt_of_rising symRank h.1).imp Nat.ne_of_lt
  have hsub : (s.ft.map fun e => symRank e.1) ⊆ List.range Config.maxLeaves := by
    intro n hn
    obtain ⟨e, -, rfl⟩ := List.mem_map.1 hn
    exact List.mem_range.2 e.1.isLt
  simpa using (hnodup.subperm hsub).length_le

/-- BUILD of a canonical table (R96): the state holds a tree whose leaves are the entries of FT, each once. -/
theorem buildUnit_of_ftWf {s : State} (h : ftWf s) :
    ∃ t o, buildUnit s = .ok () t ∧ t.holds o ∧ (symsOf o).Perm (s.ft.map fun e => e.1) ∧
      t = { s with
        flags := (buildStart s).flags ||| trvMask, leafCnt := BitVec.ofNat 32 s.ft.length, nCount := t.nCount
        root := t.root, node := t.node, pq := t.pq, draws := t.draws } := by
  have hlen := length_ft_le h
  simp only [Config.maxLeaves] at hlen
  obtain ⟨u, Us, hseed, hUs, hsyms, hpq, hncount, hframe⟩ := seedLeaves_of_room s.ft (s := buildStart s) (Ts := []) h.2
    (show 0 + s.ft.length ≤ 131071 by omega) .nil
  have hcount : u.nCount.toNat = s.ft.length := hncount.trans (Nat.zero_add _)
  obtain ⟨v, o, htree, ho, hosyms, hframe'⟩ := buildTree_of_room (by rw [hpq, hncount]; rfl)
    (by simp only [Config.maxLeaves]; omega) hUs
  have hrun : buildUnit s = .ok () (releasePq (setFlags trvMask v)) := by
    simp only [buildUnit]
    rw [show (buildStart s).ft = s.ft from rfl, hseed, bind_ok, htree, bind_ok, atEnd_ok]
  have ho' : (releasePq (setFlags trvMask v)).holds o :=
    (holds_congr (s := v) (t := releasePq (setFlags trvMask v)) rfl rfl).2 ho
  refine ⟨_, o, hrun, ho', hosyms.trans (hsyms.trans (by simp [forestSyms])), ?_⟩
  have hleaf : u.nCount.setWidth 32 = BitVec.ofNat 32 s.ft.length := by rw [← hcount, BitVec.ofNat_toNat]
  rw [hleaf] at hframe'
  rw [hframe', hframe]
  rfl

end Sys2Proof.Machine
end

section
/-! SUPPORT. COMPRESS on quiet streams (spec/44_encoder.md R134, spec/30_encoding.md R69): the file it writes. -/

namespace Sys2Proof.Machine

open Sys2Proof

/-! ### Symbols, leaves and code words of a tree that may be empty -/

theorem map_fst_codesOf (o : Option CodeTree) : (codesOf o).map (fun e => e.1) = symsOf o := by
  cases o with
  | none => rfl
  | some T => exact T.map_fst_codes

theorem length_symsOf (o : Option CodeTree) : (symsOf o).length = leavesOf o := by
  cases o with
  | none => rfl
  | some T => exact T.length_syms

/-- A symbol of the tree has a code word, the one DICT_ENC takes (R106, R110). -/
theorem exists_lastCode {o : Option CodeTree} {sym : Symbol} (h : sym ∈ symsOf o) :
    ∃ p, ((codesOf o).reverse.find? fun e => e.1 == sym).map (fun e => e.2) = some p ∧ (sym, p) ∈ codesOf o := by
  rw [← map_fst_codesOf] at h
  obtain ⟨d, hmem, hd, rfl⟩ := exists_find?_reverse h
  exact ⟨d.2, by rw [hd]; rfl, hmem⟩

/-! ### The symbols FT counts -/

theorem mem_of_find {κ α : Type} {rank : κ → Nat} {t : Table κ α} {k : κ} {v : α} (h : Table.find rank t k = some v) :
    ∃ k', rank k' = rank k ∧ (k', v) ∈ t := by
  induction t with
  | nil => simp [Table.find] at h
  | cons e t ih =>
    rw [Table.find] at h
    split at h
    · exact ⟨e.1, ‹_›, by rw [← Option.some.inj h]; exact List.mem_cons_self⟩
    · obtain ⟨k', hk, hmem⟩ := ih h
      exact ⟨k', hk, List.mem_cons_of_mem _ hmem⟩

/-- A symbol with a count has an entry. -/
theorem mem_keys_of_readFt_ne_zero {s : State} {sym : Symbol} (h : readFt s sym ≠ 0#32) :
    sym ∈ s.ft.map fun e => e.1 := by
  obtain ⟨v, hv⟩ : ∃ v, Table.find symRank s.ft sym = some v := by
    refine Option.ne_none_iff_exists'.1 fun e => h ?_
    rw [readFt, e, Option.getD_none]
  obtain ⟨k, hk, hmem⟩ := mem_of_find hv
  exact List.mem_map.2 ⟨_, hmem, symRank_inj.1 hk⟩

/-! ### The file (30_encoding.md R69) -/

/-- A compressed file before padding: TOTAL, LEAFCNT, the serialized tree, the body. -/
def fileOf (n : Nat) (o : Option CodeTree) (body : Bits) : Bits :=
  fieldBits (BitVec.ofNat 32 n) ++ fieldBits (BitVec.ofNat 32 (leavesOf o)) ++ treeBitsOf o ++ body

/-- COMPRESS before its first write: `s` is the state it began with, `X` its input, `o` the tree of BUILD. -/
structure Prepared (s : State) (X : List Byte) (o : Option CodeTree) (t : State) : Prop where
  flags : t.flags = favMask ||| trvMask ||| devMask
  total : t.total = BitVec.ofNat 32 X.length
  leafCnt : t.leafCnt = BitVec.ofNat 32 (leavesOf o)
  tree : t.holds o
  leaves : leavesOf o ≤ Config.maxLeaves
  codes : ∀ sym ∈ symbols X, ∃ p, readCt t sym = some p ∧ (sym, p) ∈ codesOf o
  quiet : t.quiet
  nextPass : t.nextPass = X
  outBits : t.outBits = s.outBits

/-- The stages of COMPRESS that write nothing: ANALYZE, BUILD and DICT_ENC. -/
def prepare (s : State) : Flow Unit :=
  (analyzeUnit (clearCore s)).bind fun _ s => (buildUnit s).bind fun _ s => dictEncUnit s

theorem prepare_quiet {s : State} {X : List Byte} (h : s.quiet) (hX : s.delivers X) (hlen : X.length ≤ 2 ^ 32 - 1) :
    ∃ t o, prepare s = .ok () t ∧ Prepared s X o t := by
  have hclear : (rewind (clearCore s)).inBytes = (rewind s).inBytes := rewind_inBytes_congr rfl
  obtain ⟨s₁, h₁, hwf, hcount, hq₁, hf₁⟩ := analyzeUnit_quiet (s := clearCore s) h
    ((congrArg ByteSource.bytes hclear).trans hX.1) hlen
  obtain ⟨s₂, o, h₂, ho₂, hsyms, hf₂⟩ := buildUnit_of_ftWf hwf
  have hleaves : leavesOf o = s₁.ft.length := by rw [← length_symsOf, hsyms.length_eq, List.length_map]
  have hmax : leavesOf o ≤ Config.maxLeaves := hleaves ▸ length_ft_le hwf
  have hflags₁ : s₁.flags = favMask := congrArg State.flags hf₁
  have hflags₂ : s₂.flags = s₁.flags &&& ~~~(trvMask ||| devMask ||| ddvMask ||| hrvMask) ||| trvMask :=
    congrArg State.flags hf₂
  rw [hflags₁, show favMask &&& ~~~(trvMask ||| devMask ||| ddvMask ||| hrvMask) = favMask by decide] at hflags₂
  obtain ⟨t, h₃, hct, hf₃⟩ := dictEncUnit_of_holds (by rw [State.trv, hflags₂]; rfl) ho₂ (hmax.trans (by decide))
  have hflags₃ : t.flags = s₂.flags &&& ~~~devMask ||| devMask := congrArg State.flags hf₃
  have hin : t.inBytes = { (rewind s).inBytes with pos := X.length } := by rw [hf₃, hf₂, hf₁, hclear]
  refine ⟨t, o, by rw [prepare, h₁, bind_ok, h₂, bind_ok, h₃], ?_⟩
  constructor
  case flags => rw [hflags₃, hflags₂]; decide
  case total => rw [hf₃, hf₂, hf₁]
  case leafCnt => rw [hf₃, hf₂, hleaves]
  case tree => exact (holds_congr (by rw [hf₃]) (by rw [hf₃])).2 ho₂
  case leaves => exact hmax
  case codes =>
    intro sym hsym
    have hkey : sym ∈ s₁.ft.map fun e => e.1 := mem_keys_of_readFt_ne_zero fun e => by
      have hpos := List.count_pos_iff.2 hsym
      rw [← hcount, e] at hpos
      exact absurd hpos (by decide)
    rw [hct]
    exact exists_lastCode (hsyms.mem_iff.2 hkey)
  case quiet => rw [hf₃, hf₂]; exact hq₁
  case nextPass => rw [nextPass_eq_headD, hin]; exact (nextPass_eq_headD (rewind s)).symm.trans hX.2
  case outBits => rw [hf₃, hf₂, hf₁]; rfl

theorem compressUnit_eq_prepare_bind (s : State) :
    compressUnit s = (prepare s).bind fun _ s => (hdrWrUnit s).bind fun _ s => (treeWrUnit s).bind fun _ s =>
      (encBodyUnit s).bind fun _ s => closeOut 0x7#4 s := by
  simp only [compressUnit, prepare, clearUnit, bind_ok, bind_assoc]

/-- COMPRESS on quiet streams (R134): the file of the input under the code of some tree that knows all its symbols. -/
theorem compressUnit_quiet {s : State} {X : List Byte} (h : s.quiet) (hX : s.delivers X)
    (hlen : X.length ≤ 2 ^ 32 - 1) :
    ∃ t o file, compressUnit s = .ok () t ∧ leavesOf o ≤ Config.maxLeaves ∧
      (∀ sym ∈ symbols X, (sym, t.codeOf sym) ∈ codesOf o) ∧
      file = s.outBits ++ fileOf X.length o ((symbols X).flatMap t.codeOf) ∧
      t.outBits = file ++ padding file.length := by
  obtain ⟨t, o, hprep, p⟩ := prepare_quiet h hX hlen
  have hfav : t.fav = true := by rw [State.fav, p.flags]; rfl
  have htrv : t.trv = true := by rw [State.trv, p.flags]; rfl
  have hdev : t.dev = true := by rw [State.dev, p.flags]; rfl
  let head := fieldBits t.total ++ fieldBits t.leafCnt
  have hhdr : hdrWrUnit t = .ok () (appendBits head (bytesRead 0 2 t)) := hdrWrUnit_quiet hfav htrv p.quiet
  have hholds : (appendBits head (bytesRead 0 2 t)).holds o :=
    (holds_congr (s := t) (t := appendBits head (bytesRead 0 2 t)) rfl rfl).2 p.tree
  obtain ⟨k, htree⟩ := treeWrUnit_quiet (o := o) (s := appendBits head (bytesRead 0 2 t)) htrv
    (quiet_bytesRead p.quiet 0 2) hholds (p.leaves.trans (by decide))
  rw [bytesRead_appendBits, bytesRead_bytesRead, appendBits_appendBits] at htree
  let u := appendBits (head ++ treeBitsOf o) (bytesRead (0 + 0) (2 + k) t)
  have hpass : u.nextPass = X := by rw [nextPass_eq_headD]; exact (nextPass_eq_headD t).symm.trans p.nextPass
  obtain ⟨v, hbody, hq, hf⟩ := encBodyUnit_quiet (s := u) (X := X) hfav hdev (quiet_bytesRead p.quiet 0 (2 + k)) hpass
    fun sym hsym => by
      obtain ⟨q, hq, -⟩ := p.codes sym hsym
      exact hq ▸ Option.some_ne_none q
  have hrun : compressUnit s = .ok () (appendBits (padding v.outBits.length) (bytesRead 0 1 v)) := by
    rw [compressUnit_eq_prepare_bind, hprep, bind_ok, hhdr, bind_ok, htree, bind_ok, hbody, bind_ok, closeOut_quiet hq]
  have hcode : (appendBits (padding v.outBits.length) (bytesRead 0 1 v)).codeOf = t.codeOf :=
    codeOf_congr (show v.ct = t.ct by rw [hf]; rfl)
  have hout : v.outBits = t.outBits ++ (head ++ treeBitsOf o) ++ (symbols X).flatMap t.codeOf := by rw [hf]; rfl
  refine ⟨_, o, v.outBits, hrun, p.leaves, fun sym hsym => ?_, ?_, rfl⟩
  · obtain ⟨q, hq, hmem⟩ := p.codes sym hsym
    rw [hcode, State.codeOf, hq]
    exact hmem
  · rw [hcode, fileOf, ← p.total, ← p.leafCnt, ← p.outBits, hout]
    simp only [head, List.append_assoc]

end Sys2Proof.Machine
end

section
/-! SUPPORT. The header and the tree on their way in (spec/45_decoder.md R141, spec/43_tree_serializer.md R121, R124,
R126): HDR_RD and TREE_RD on quiet streams as functions of the bits ahead. -/

namespace Sys2Proof.Machine

open Sys2Proof

/-! ### The bits ahead -/

/-- The state after `m` bits of IN_BITS and `k` answers of the collaborators are consumed. -/
def bitsRead (m k : Nat) (s : State) : State := seekBits (s.inBits.pos + m) (setIo (s.ioAnswers.drop k) s)

@[simp] theorem bitsRead_zero (s : State) : bitsRead 0 0 s = s := rfl

@[simp] theorem bitsRead_bitsRead (m k m' k' : Nat) (s : State) :
    bitsRead m' k' (bitsRead m k s) = bitsRead (m + m') (k + k') s := by
  simp [bitsRead, Nat.add_assoc]

theorem quiet_bitsRead {s : State} (h : s.quiet) (m k : Nat) : (bitsRead m k s).quiet := quiet_setIo_drop h k s

theorem bitsAhead_bitsRead {s : State} {bs rest : Bits} (h : s.bitsAhead = bs ++ rest) (k : Nat) :
    (bitsRead bs.length k s).bitsAhead = rest := bitsAhead_seekBits h _ rfl

theorem rdBits_bitsRead {g : Opcode} {n : Nat} {s : State} {v : BitVec n} {rest : Bits} (h : s.quiet) (hn : 0 < n)
    (hb : s.bitsAhead = fieldBits v ++ rest) : rdBits g n s = .ok v (bitsRead n 1 s) := rdBits_field h hn hb

/-! ### HDR_RD (R141) -/

/-- A header that passes the checks of HDR_RD is read and accepted. -/
theorem hdrRdUnit_of_header {s : State} {n l : Word32} {rest : Bits} (h : s.quiet)
    (hb : s.bitsAhead = fieldBits n ++ (fieldBits l ++ rest)) (hl : l.toNat ≤ Config.maxLeaves)
    (hn : l = 0#32 → n = 0#32) :
    hdrRdUnit s = .ok () (bitsRead 64 2 { s with flags := hrvMask, total := n, leafCnt := l }) := by
  let s₀ : State := { s with flags := 0#5 }
  let s₁ : State := { bitsRead 32 1 s₀ with total := n }
  let s₂ : State := { s with flags := 0#5 ||| hrvMask, total := n, leafCnt := l }
  have hfirst : rdBits 0x9#4 32 s₀ = .ok n (bitsRead 32 1 s₀) := rdBits_bitsRead h (by decide) hb
  have hb₁ : s₁.bitsAhead = fieldBits l ++ rest := by
    have hrest := bitsAhead_bitsRead (s := s₀) hb 1
    rwa [length_fieldBits] at hrest
  have hsecond : rdBits 0x9#4 32 s₁ = .ok l (bitsRead 32 1 s₁) :=
    rdBits_bitsRead (quiet_bitsRead (s := s₀) h 32 1) (by decide) hb₁
  have hcheck : checkHeader { bitsRead 32 1 s₁ with leafCnt := l } = .ok () (bitsRead 32 1 (bitsRead 32 1 s₂)) := by
    rw [checkHeader, if_neg (Nat.not_lt.2 hl), if_neg fun e => e.2 (hn e.1)]
    rfl
  rw [hdrRdUnit, hfirst, bind_ok, hsecond, bind_ok, hcheck, bitsRead_bitsRead]
  rfl

/-! ### The tokens of a tree (R121, R126) -/

/-- The token at the read position is read, where its counter allows it (R122 c). -/
theorem readToken_quiet (t : Token) {s : State} {rest : Bits} (h : s.quiet) (hb : s.bitsAhead = encodeToken t ++ rest)
    (hleaf : s.remL = 0#17 → t = .merge) :
    ∃ k, readToken s = .ok t (bitsRead (encodeToken t).length k s) := by
  cases t with
  | leaf sym =>
    have hflag : rdBits 0xA#4 1 s = .ok 1#1 (bitsRead 1 1 s) := rdBits_bitsRead h (by decide) hb
    have hsym : rdBits 0xA#4 16 (bitsRead 1 1 s) = .ok sym (bitsRead 17 2 s) := by
      have hrest : (bitsRead 1 1 s).bitsAhead = fieldBits sym ++ rest := bitsAhead_bitsRead (bs := [true]) hb 1
      rw [rdBits_bitsRead (quiet_bitsRead h 1 1) (by decide) hrest, bitsRead_bitsRead]
    have hremL : (bitsRead 1 1 s).remL ≠ 0#17 := fun e => Token.noConfusion (hleaf e)
    refine ⟨2, ?_⟩
    simp only [readToken, hflag, bind_ok, if_true, if_neg hremL, hsym]
    simp [encodeToken, tokenOf]
  | merge =>
    have hflag : rdBits 0xA#4 1 s = .ok 0#1 (bitsRead 1 1 s) := rdBits_bitsRead h (by decide) hb
    refine ⟨1, ?_⟩
    simp only [readToken, hflag, bind_ok]
    rfl

/-- What reading the tokens of a tree leaves: the tree on the stack, each counter lowered, a node for each token. -/
structure Parsed (T : CodeTree) (s t : State) : Prop where
  top : ∃ i, t.stack = i :: s.stack ∧ T.standsIn t i
  grown : Grown s t
  nCount : t.nCount.toNat + 1 = s.nCount.toNat + 2 * T.leaves
  remL : t.remL.toNat + T.leaves = s.remL.toNat
  remI : t.remI.toNat + T.leaves = s.remI.toNat + 1
  frame : t = { s with
    node := t.node, nCount := t.nCount, stack := t.stack, remL := t.remL, remI := t.remI, ioAnswers := t.ioAnswers
    inBits := { s.inBits with pos := s.inBits.pos + T.tokenBits.length } }

/-- The state after a leaf token (R115). -/
def leafPushed (sym : Symbol) (s : State) : State :=
  { pushStack (s.nCount.setWidth 17) (stored (.leaf sym 0#48) s) with remL := s.remL - 1#17 }

/-- The state after a merge token with `b` on top of the stack, `a` under it and then `below` (R116). -/
def topMerged (a b : NodeIdx) (below : List NodeIdx) (s : State) : State :=
  { stored (.internal 0#48 a b) s with stack := s.nCount.setWidth 17 :: below, remI := s.remI - 1#17 }

theorem tokenLeaf_of_room (sym : Symbol) {s : State} (hL : s.remL ≠ 0#17) (hroom : s.nCount.toNat < Config.maxNodes) :
    tokenLeaf sym s = .ok () (leafPushed sym s) := by
  rw [tokenLeaf, if_neg hL, allocNode_of_room _ hroom, bind_ok]
  rfl

theorem tokenMerge_of_room {a b : NodeIdx} {below : List NodeIdx} {s : State} (hI : s.remI ≠ 0#17)
    (hstack : s.stack = b :: a :: below) (hroom : s.nCount.toNat < Config.maxNodes) :
    tokenMerge s = .ok () (topMerged a b below s) := by
  rw [tokenMerge, if_neg hI, hstack]
  simp only [allocNode_of_room (s := { s with stack := below }) _ hroom, bind_ok]
  rfl

/-- A leaf token reads the tree of one leaf. -/
theorem parsed_leaf (sym : Symbol) (k : Nat) {s : State} (hL : s.remL ≠ 0#17)
    (hroom : s.nCount.toNat < Config.maxNodes) :
    Parsed (.leaf sym) s (leafPushed sym (bitsRead (encodeToken (.leaf sym)).length k s)) := by
  let u := bitsRead (encodeToken (.leaf sym)).length k s
  have hcount : (leafPushed sym u).nCount.toNat = s.nCount.toNat + 1 := nCount_stored (s := u) (.leaf sym 0#48) hroom
  have hg : Grown (stored (.leaf sym 0#48) u) (leafPushed sym u) := Grown.of_eq rfl rfl
  have hL' : 1 ≤ s.remL.toNat := Nat.one_le_iff_ne_zero.2 fun e => hL (BitVec.eq_of_toNat_eq e)
  have hremL : (leafPushed sym u).remL.toNat + 1 = s.remL.toNat := show (s.remL - 1#17).toNat + 1 = _ by bv_omega
  constructor
  case top => exact ⟨_, rfl, CodeTree.standsIn_of_grown hg (standsIn_stored_leaf (s := u) sym 0#48 hroom)⟩
  case grown =>
    exact (Grown.of_eq (s := s) (t := u) rfl rfl).trans ((grown_stored (s := u) (.leaf sym 0#48) hroom).trans hg)
  case nCount => exact (congrArg (· + 1) hcount).trans rfl
  case remL => exact hremL
  case remI => rfl
  case frame => simp [leafPushed, stored, bitsRead, CodeTree.tokenBits, CodeTree.tokens]

/-- Reading two trees and then a merge token reads the tree of both. -/
theorem parsed_node {l r : CodeTree} {s t u : State} (hl : Parsed l s t) (hr : Parsed r t u) {a b : NodeIdx}
    (ha : l.standsIn t a) (hb : r.standsIn u b) (k : Nat) (hI : 1 ≤ u.remI.toNat)
    (hroom : u.nCount.toNat < Config.maxNodes) :
    Parsed (.node l r) s (topMerged a b s.stack (bitsRead (encodeToken .merge).length k u)) := by
  let n : Node := .internal 0#48 a b
  let v := bitsRead (encodeToken .merge).length k u
  have huv : Grown u v := Grown.of_eq rfl rfl
  have hg : Grown (stored n v) (topMerged a b s.stack v) := Grown.of_eq rfl rfl
  have hcount : (topMerged a b s.stack v).nCount.toNat = u.nCount.toNat + 1 := nCount_stored (s := v) n hroom
  have hremI : (topMerged a b s.stack v).remI.toNat + 1 = u.remI.toNat := show (u.remI - 1#17).toNat + 1 = _ by bv_omega
  have hstands : (CodeTree.node l r).standsIn (stored n v) (v.nCount.setWidth 17) :=
    standsIn_stored_node 0#48 hroom (CodeTree.standsIn_of_grown (hr.grown.trans huv) ha)
      (CodeTree.standsIn_of_grown huv hb)
  obtain ⟨-, hlg, hln, hlL, hlI, hlf⟩ := hl
  obtain ⟨-, hrg, hrn, hrL, hrI, hrf⟩ := hr
  constructor
  case top => exact ⟨_, rfl, CodeTree.standsIn_of_grown hg hstands⟩
  case grown => exact hlg.trans (hrg.trans (huv.trans ((grown_stored (s := v) n hroom).trans hg)))
  case nCount =>
    show (topMerged a b s.stack v).nCount.toNat + 1 = s.nCount.toNat + 2 * (l.leaves + r.leaves)
    omega
  case remL =>
    show u.remL.toNat + (l.leaves + r.leaves) = s.remL.toNat
    omega
  case remI =>
    show (topMerged a b s.stack v).remI.toNat + (l.leaves + r.leaves) = s.remI.toNat + 1
    omega
  case frame =>
    have hlen : (CodeTree.node l r).tokenBits.length = l.tokenBits.length + r.tokenBits.length + 1 := by
      simp [CodeTree.tokenBits, CodeTree.tokens, encodeToken]
      omega
    rw [hrf, hlf, hlen]
    simp [topMerged, stored, bitsRead, encodeToken, Nat.add_assoc]

/-- One pass of the token loop: the token at the read position is read, then performed. -/
theorem tokenLoop_of_token (t : Token) {n : Nat} {s : State} {rest : Bits} (h : s.quiet)
    (hcount : s.remL ≠ 0#17 ∨ s.remI ≠ 0#17) (hb : s.bitsAhead = encodeToken t ++ rest)
    (hleaf : s.remL = 0#17 → t = .merge) :
    ∃ k, tokenLoop (n + 1) s =
      (performToken t (bitsRead (encodeToken t).length k s)).bind fun _ s => tokenLoop n s := by
  obtain ⟨k, hk⟩ := readToken_quiet t h hb hleaf
  refine ⟨k, ?_⟩
  rw [tokenLoop, if_neg (by tauto), hk, bind_ok]

/-- Reading the tokens of a tree (R124, R126): one pass a token, and then the tree is on the stack. -/
theorem tokenLoop_of_tree (T : CodeTree) {m n : Nat} {s : State} {rest : Bits} (hm : m + 1 = n + 2 * T.leaves)
    (h : s.quiet) (hb : s.bitsAhead = T.tokenBits ++ rest) (hL : T.leaves ≤ s.remL.toNat)
    (hI : T.leaves ≤ s.remI.toNat + 1) (hroom : s.nCount.toNat + 2 * T.leaves ≤ Config.maxNodes + 1) :
    ∃ t, tokenLoop m s = tokenLoop n t ∧ Parsed T s t ∧ t.quiet ∧ t.bitsAhead = rest := by
  induction T generalizing m n s rest with
  | leaf sym =>
    obtain rfl : m = n + 1 := Nat.succ.inj hm
    have hone : s.nCount.toNat < Config.maxNodes := by simp only [CodeTree.leaves] at hroom; omega
    have hL' : s.remL ≠ 0#17 := fun e => by simp [e, CodeTree.leaves] at hL
    have hb' : s.bitsAhead = encodeToken (.leaf sym) ++ rest := by simpa [CodeTree.tokenBits, CodeTree.tokens] using hb
    obtain ⟨k, hk⟩ := tokenLoop_of_token (.leaf sym) (n := n) h (.inl hL') hb' fun e => absurd e hL'
    let u := bitsRead (encodeToken (.leaf sym)).length k s
    refine ⟨leafPushed sym u, ?_, parsed_leaf sym k hL' hone, quiet_bitsRead h (encodeToken (.leaf sym)).length k,
      bitsAhead_bitsRead hb' k⟩
    rw [hk, performToken, tokenLeaf_of_room sym (s := u) hL' hone, bind_ok]
  | node l r hl hr =>
    have hlpos := l.leaves_pos
    have hrpos := r.leaves_pos
    simp only [CodeTree.leaves] at hm hL hI hroom
    have hb' : s.bitsAhead = l.tokenBits ++ (r.tokenBits ++ (encodeToken .merge ++ rest)) := by
      simpa [CodeTree.tokenBits, CodeTree.tokens] using hb
    obtain ⟨t, ht, hpl, htq, htb⟩ := hl (m := m) (n := n + 2 * r.leaves) (by omega) h hb' (by omega) (by omega)
      (by omega)
    obtain ⟨a, hta, ha⟩ := hpl.top
    have htcount := hpl.nCount
    have htL := hpl.remL
    have htI := hpl.remI
    obtain ⟨u, hu, hpr, huq, hub⟩ := hr (m := n + 2 * r.leaves) (n := n + 1) (by omega) htq htb (by omega) (by omega)
      (by omega)
    obtain ⟨b, hstack, hb⟩ := hpr.top
    have hucount := hpr.nCount
    have huI := hpr.remI
    have hI1 : 1 ≤ u.remI.toNat := by omega
    have hI' : u.remI ≠ 0#17 := fun e => by simp [e] at hI1
    have hroom' : u.nCount.toNat < Config.maxNodes := by omega
    obtain ⟨k, hk⟩ := tokenLoop_of_token .merge (n := n) huq (.inr hI') hub fun _ => rfl
    let v := bitsRead (encodeToken .merge).length k u
    have hmerge : tokenMerge v = .ok () (topMerged a b s.stack v) :=
      tokenMerge_of_room (s := v) hI' (show u.stack = _ by rw [hstack, hta]) hroom'
    refine ⟨topMerged a b s.stack v, ?_, parsed_node hpl hpr ha hb k hI1 hroom',
      quiet_bitsRead huq (encodeToken .merge).length k, bitsAhead_bitsRead hub k⟩
    rw [ht, hu, hk, performToken, hmerge, bind_ok]

/-! ### TREE_RD (R121) -/

/-- The end of the token loop: the index left on the stack becomes ROOT. -/
theorem treeRdFinish_of_singleton {s : State} {r : NodeIdx} (h : s.stack = [r]) :
    treeRdFinish s = .ok () (setFlags trvMask { s with stack := [], root := some r, phase := .idle }) := by
  rw [treeRdFinish, h]

/-- The state in which the token loop of TREE_RD begins. -/
def treeRdCounters (s : State) : State :=
  { treeRdStart s with remL := s.leafCnt.setWidth 17, remI := (s.leafCnt - 1#32).setWidth 17 }

/-- TREE_RD on the bits of a tree of LEAFCNT leaves, the empty tree included (R121, R125, R126): the state holds that
tree, and its bits are consumed. -/
theorem treeRdUnit_of_tree {s : State} {o : Option CodeTree} {rest : Bits} (hhrv : s.hrv = true) (h : s.quiet)
    (hleaf : s.leafCnt.toNat = leavesOf o) (hmax : leavesOf o ≤ Config.maxLeaves)
    (hb : s.bitsAhead = treeBitsOf o ++ rest) :
    ∃ t, treeRdUnit s = .ok () t ∧ t.holds o ∧ t.quiet ∧ t.bitsAhead = rest ∧
      t = { s with
        flags := (treeRdStart s).flags ||| trvMask, node := t.node, nCount := t.nCount, root := t.root
        ioAnswers := t.ioAnswers, inBits := { s.inBits with pos := s.inBits.pos + (treeBitsOf o).length }
        stack := t.stack, remL := t.remL, remI := t.remI, draws := t.draws, phase := t.phase } := by
  cases o with
  | none =>
    have hzero : (treeRdStart s).leafCnt = 0#32 := BitVec.eq_of_toNat_eq hleaf
    have hrun : treeRdUnit s = .ok () (releaseStack (setFlags trvMask { treeRdStart s with root := none })) := by
      simp only [treeRdUnit, require_of_true hhrv, bind_ok, if_pos hzero, atEnd_ok]
    exact ⟨_, hrun, rfl, h, hb, rfl⟩
  | some T =>
    have hpos := T.leaves_pos
    simp only [leavesOf, Option.elim_some, Config.maxLeaves] at hleaf hmax
    have hne : (treeRdStart s).leafCnt ≠ 0#32 := fun e => by
      have hzero : s.leafCnt.toNat = 0 := congrArg BitVec.toNat e
      omega
    let u := treeRdCounters s
    have hL : u.remL.toNat = T.leaves := show (s.leafCnt.setWidth 17).toNat = _ by
      rw [BitVec.toNat_setWidth, hleaf]
      exact Nat.mod_eq_of_lt (by omega)
    have hI : u.remI.toNat + 1 = T.leaves := show ((s.leafCnt - 1#32).setWidth 17).toNat + 1 = _ by
      have hpred : (s.leafCnt - 1#32).toNat + 1 = T.leaves := by bv_omega
      rw [BitVec.toNat_setWidth, Nat.mod_eq_of_lt (by omega), hpred]
    obtain ⟨t, ht, hp, htq, htb⟩ := tokenLoop_of_tree T (m := u.remL.toNat + u.remI.toNat) (n := 0) (s := u)
      (by omega) h hb (by omega) (by omega) (show 0 + 2 * T.leaves ≤ 131071 + 1 by omega)
    obtain ⟨r, hstack, hr⟩ := hp.top
    have hdone : tokenLoop 0 t = .ok () t := rfl
    let v := releaseStack (setFlags trvMask { t with stack := [], root := some r, phase := .idle })
    have hrun : treeRdUnit s = .ok () v := by
      simp only [treeRdUnit, require_of_true hhrv, bind_ok, if_neg hne]
      show ((tokenLoop (u.remL.toNat + u.remI.toNat) u).bind fun _ s => treeRdFinish s).atEnd releaseStack = _
      rw [ht, hdone, bind_ok, treeRdFinish_of_singleton hstack, atEnd_ok]
    have hr' : T.standsIn v r := CodeTree.standsIn_of_grown (s := t) (t := v) (Grown.of_eq rfl rfl) hr
    refine ⟨v, hrun, CodeTree.standsAt_of_standsIn hr', htq, htb, ?_⟩
    simp only [v]
    rw [hp.frame]
    rfl

end Sys2Proof.Machine
end

section
/-! SUPPORT. DICT_DEC (spec/42_dictionary_codec.md R107, R109): no code word of a tree begins another, and DT with
MAXDEPTH matches each of them where it ends and not before. -/

namespace Sys2Proof.Machine

open Sys2Proof

/-! ### No code word begins another (R109) -/

/-- Neither path begins the other. -/
def Apart (a b : Symbol × Bits) : Prop := ¬ a.2 <+: b.2 ∧ ¬ b.2 <+: a.2

theorem CodeTree.pairwise_apart_paths (T : CodeTree) : T.paths.Pairwise Apart := by
  induction T with
  | leaf sym => simp [CodeTree.paths]
  | node l r hl hr =>
    refine List.pairwise_append.2 ⟨?_, ?_, ?_⟩
    · exact List.pairwise_map.2 (hl.imp fun h => by simpa [Apart, List.cons_prefix_cons] using h)
    · exact List.pairwise_map.2 (hr.imp fun h => by simpa [Apart, List.cons_prefix_cons] using h)
    · intro a ha b hb
      obtain ⟨a', -, rfl⟩ := List.mem_map.1 ha
      obtain ⟨b', -, rfl⟩ := List.mem_map.1 hb
      simp [Apart, List.cons_prefix_cons]

theorem pairwise_apart_codesOf (o : Option CodeTree) : (codesOf o).Pairwise Apart := by
  match o with
  | none => exact .nil
  | some (.leaf sym) => exact List.pairwise_singleton _ _
  | some (.node l r) => exact CodeTree.pairwise_apart_paths (.node l r)

/-- No code word is empty. -/
theorem ne_nil_of_mem_codesOf {o : Option CodeTree} {e : Symbol × Bits} (h : e ∈ codesOf o) : e.2 ≠ [] := by
  match o with
  | none => cases h
  | some (.leaf sym) => simp_all [codesOf, CodeTree.codes]
  | some (.node l r) =>
    rcases List.mem_append.1 h with h | h
    · obtain ⟨d, -, rfl⟩ := List.mem_map.1 h
      exact List.cons_ne_nil _ _
    · obtain ⟨d, -, rfl⟩ := List.mem_map.1 h
      exact List.cons_ne_nil _ _

/-- No code word is longer than the tree has leaves (R110). -/
theorem length_le_of_mem_codesOf {o : Option CodeTree} {e : Symbol × Bits} (h : e ∈ codesOf o) :
    e.2.length ≤ leavesOf o := by
  match o with
  | none => cases h
  | some (.leaf sym) => simp_all [codesOf, CodeTree.codes, leavesOf, CodeTree.leaves]
  | some (.node l r) =>
    exact (CodeTree.length_path_lt (.node l r) e h).le.trans (CodeTree.levels_le_leaves (.node l r))

/-- Of the code words of a tree only one begins like a given one. -/
theorem eq_of_prefix_of_mem_codesOf {o : Option CodeTree} {d e : Symbol × Bits} (hd : d ∈ codesOf o)
    (he : e ∈ codesOf o) (h : d.2 <+: e.2) : d = e := by
  by_contra hne
  have hsymm : Std.Symm Apart := ⟨fun _ _ h => h.symm⟩
  exact ((pairwise_apart_codesOf o).forall hd he hne).1 h

/-! ### DICT_DEC (R107) -/

theorem fillDt_frame (ps : List (Symbol × Bits)) (s : State) : fillDt ps s = { s with dt := (fillDt ps s).dt } := by
  induction ps generalizing s with
  | nil => rfl
  | cons e ps ih => exact ih (writeDt e.2 e.1 s)

/-- After filling DT a path has the symbol of its last pair. -/
theorem readDt_fillDt (ps : List (Symbol × Bits)) (s : State) (p : Bits) :
    readDt (fillDt ps s) p = ((ps.reverse.find? fun e => e.2 == p).map fun e => e.1).or (readDt s p) :=
  read_foldl_write (fun s e => readDt_writeDt_same s e.2 e.1) (fun s e _ h => readDt_writeDt_other s e.1 h) ps s p

/-- The entries of DT after filling it: those of the pairs, and old ones. -/
theorem mem_dt_fillDt (ps : List (Symbol × Bits)) (s : State) : ∀ e ∈ (fillDt ps s).dt, (e.2, e.1) ∈ ps ∨ e ∈ s.dt := by
  induction ps generalizing s with
  | nil => exact fun e he => .inr he
  | cons d ps ih =>
    intro e he
    rcases ih (writeDt d.2 d.1 s) e he with h | h
    · exact .inl (List.mem_cons_of_mem _ h)
    · rcases mem_put pathRank h with rfl | h
      · exact .inl List.mem_cons_self
      · exact .inr h

/-- The keys of DT filled with the code words of a tree are the code words, each for its symbol. -/
theorem readDt_fillDt_codesOf {o : Option CodeTree} {s : State} (hs : s.dt = []) (p : Bits) (sym : Symbol) :
    readDt (fillDt (codesOf o) s) p = some sym ↔ (sym, p) ∈ codesOf o := by
  have hnone : readDt s p = none := by rw [readDt, hs]; rfl
  rw [readDt_fillDt, hnone, Option.or_none, Option.map_eq_some_iff]
  constructor
  · rintro ⟨e, he, rfl⟩
    have hp : e.2 = p := by simpa using List.find?_some he
    exact hp ▸ List.mem_reverse.1 (List.mem_of_find?_eq_some he)
  · intro h
    obtain ⟨d, hmem, hd, hp⟩ := exists_find?_reverse (key := fun e => e.2) (List.mem_map.2 ⟨_, h, rfl⟩)
    have heq := eq_of_prefix_of_mem_codesOf hmem h (hp ▸ List.prefix_rfl)
    exact ⟨d, hd, congrArg Prod.fst heq⟩

/-- The greatest length of a key bounds the keys, and nothing smaller does. -/
theorem longestKey_le_iff (t : Table Bits Symbol) (n : Nat) : longestKey t ≤ n ↔ ∀ e ∈ t, e.1.length ≤ n := by
  have h : ∀ m, t.foldl (fun m e => max m e.1.length) m ≤ n ↔ m ≤ n ∧ ∀ e ∈ t, e.1.length ≤ n := by
    induction t with
    | nil => simp
    | cons e t ih => intro m; simp [ih, and_assoc]
  simp [longestKey, h]

/-- DICT_DEC on a tree (R107): DT holds exactly its code words, MAXDEPTH bounds them, and DDV is set. -/
theorem dictDecUnit_of_holds {s : State} {o : Option CodeTree} (htrv : s.trv = true) (ho : s.holds o)
    (hmax : leavesOf o ≤ Config.maxLeaves) :
    ∃ t, dictDecUnit s = .ok () t ∧ (∀ p sym, readDt t p = some sym ↔ (sym, p) ∈ codesOf o) ∧
      (∀ e ∈ codesOf o, e.2.length ≤ t.maxDepth.toNat) ∧
      t = { s with dt := t.dt, maxDepth := t.maxDepth, flags := s.flags &&& ~~~ddvMask ||| ddvMask } := by
  let s' : State := { clearFlags ddvMask s with dt := [] }
  let u := fillDt (codesOf o) s'
  have hpaths : treePaths s' = some (codesOf o) :=
    treePaths_of_holds ((holds_congr (s := s) (t := s') rfl rfl).2 ho) (hmax.trans (by decide))
  have hrun : dictDecUnit s = .ok () (setFlags ddvMask (setMaxDepth u)) := by
    simp only [dictDecUnit, require_of_true htrv, bind_ok, pathsOf]
    rw [hpaths, bind_ok]
  have hread : ∀ p sym, readDt u p = some sym ↔ (sym, p) ∈ codesOf o := readDt_fillDt_codesOf rfl
  have hlong : longestKey u.dt ≤ Config.maxLeaves := (longestKey_le_iff _ _).2 fun e he => by
    rcases mem_dt_fillDt (codesOf o) s' e he with h | h
    · exact (length_le_of_mem_codesOf h).trans hmax
    · cases h
  have hdepth : (setMaxDepth u).maxDepth.toNat = longestKey u.dt := by
    simp only [Config.maxLeaves] at hlong
    rw [setMaxDepth_maxDepth, BitVec.toNat_ofNat, Nat.mod_eq_of_lt (by omega)]
  refine ⟨_, hrun, hread, fun e he => ?_, ?_⟩
  · obtain ⟨k, hk, hmem⟩ := mem_of_find ((hread e.2 e.1).2 he)
    rw [pathRank_inj.1 hk] at hmem
    exact ((longestKey_le_iff u.dt _).1 le_rfl _ hmem).trans hdepth.ge
  · have hframe : u = { s' with dt := u.dt } := fillDt_frame (codesOf o) s'
    rw [hframe]
    rfl

/-- With that DT and MAXDEPTH every code word is matched where it ends and not before. -/
theorem matchesEach_of_mem_codesOf {o : Option CodeTree} {s : State}
    (hread : ∀ p sym, readDt s p = some sym ↔ (sym, p) ∈ codesOf o)
    (hdepth : ∀ e ∈ codesOf o, e.2.length ≤ s.maxDepth.toNat) {picks : List (Symbol × Bits)}
    (hpicks : ∀ e ∈ picks, e ∈ codesOf o) : s.matchesEach picks := by
  intro e he
  have hmem := hpicks e he
  refine ⟨ne_nil_of_mem_codesOf hmem, hdepth e hmem, (hread e.2 e.1).2 hmem, fun q hq hne _ => ?_⟩
  refine Option.eq_none_iff_forall_ne_some.2 fun sym hsym => hne ?_
  have heq := eq_of_prefix_of_mem_codesOf ((hread q sym).1 hsym) hmem ((List.mem_inits q e.2).1 hq)
  exact congrArg Prod.snd heq

end Sys2Proof.Machine
end

section
/-! SUPPORT. DEC_BODY (spec/45_decoder.md R142) on a body of code words. -/

namespace Sys2Proof.Machine

open Sys2Proof

/-- Bytes on OUT_BYTES, one call each. -/
theorem wrBytes_quiet {g : Opcode} (bs : List Byte) {s : State} (h : s.quiet) :
    wrBytes g bs s = .ok () (appendBytes bs (bitsRead 0 bs.length s)) := by
  induction bs generalizing s with
  | nil => simp [wrBytes]
  | cons b bs ih =>
    have hone : wrByte g b s = .ok () (appendBytes [b] (bitsRead 0 1 s)) := wrByte_quiet h
    have hswap : bitsRead 0 bs.length (appendBytes [b] (bitsRead 0 1 s)) =
        appendBytes [b] (bitsRead 0 bs.length (bitsRead 0 1 s)) := rfl
    rw [wrBytes, hone, bind_ok, ih (s := appendBytes [b] (bitsRead 0 1 s)) (quiet_bitsRead h 0 1), hswap,
      bitsRead_bitsRead, appendBytes_appendBytes, List.length_cons, Nat.add_comm 1]
    rfl

/-- The state after the bytes `out` of a matched symbol are emitted (R142). -/
def emitted (out : List Byte) (s : State) : State :=
  { appendBytes out (bitsRead 0 out.length s) with rem := s.rem - BitVec.ofNat 32 out.length, pathBuf := [] }

@[simp] theorem emitted_dt (out : List Byte) (s : State) : (emitted out s).dt = s.dt := by simp [emitted, bitsRead]

@[simp] theorem emitted_maxDepth (out : List Byte) (s : State) : (emitted out s).maxDepth = s.maxDepth := by
  simp [emitted, bitsRead]

@[simp] theorem emitted_inBits (out : List Byte) (s : State) : (emitted out s).inBits = s.inBits := by
  simp [emitted, bitsRead]

@[simp] theorem emitted_ioAnswers (out : List Byte) (s : State) :
    (emitted out s).ioAnswers = s.ioAnswers.drop out.length := by
  simp [emitted, bitsRead]

theorem quiet_emitted {s : State} (h : s.quiet) (out : List Byte) : (emitted out s).quiet := by
  rw [State.quiet, emitted_ioAnswers]
  exact fun a ha => h a (List.mem_of_mem_drop ha)

theorem bitsAhead_emitted (out : List Byte) (s : State) : (emitted out s).bitsAhead = s.bitsAhead := by
  simp only [State.bitsAhead, emitted_inBits]

theorem toNat_rem_emitted {out : List Byte} {s : State} (h : out.length ≤ s.rem.toNat) :
    (emitted out s).rem.toNat = s.rem.toNat - out.length := by
  show (s.rem - BitVec.ofNat 32 out.length).toNat = _
  bv_omega

theorem emitSymbol_quiet (sym : Symbol) {s : State} (h : s.quiet) :
    emitSymbol sym s = .ok () (emitted (symbolBytes s.rem.toNat sym) s) := by
  simp only [emitSymbol, wrBytes_quiet _ h, bind_ok]
  rfl

/-- PATHBUF set to `p`. -/
def withPath (p : Bits) (s : State) : State := { s with pathBuf := p }

theorem rdBits_bit {g : Opcode} {b : Bool} {s : State} {rest : Bits} (h : s.quiet) (hb : s.bitsAhead = b :: rest) :
    rdBits g 1 s = .ok (BitVec.ofBool b) (bitsRead 1 1 s) :=
  rdBits_bitsRead h (by decide) (by rw [hb, fieldBits_ofBool]; rfl)

/-- A pass of the loop whose bit completes a code word. -/
theorem decBodyLoop_of_match {b : Bool} {n : Nat} {s : State} {rest : Bits} {sym : Symbol} (h : s.quiet)
    (hrem : s.rem ≠ 0#32) (hb : s.bitsAhead = b :: rest) (hkey : readDt s (s.pathBuf ++ [b]) = some sym) :
    decBodyLoop (n + 1) s =
      (emitSymbol sym (withPath (s.pathBuf ++ [b]) (bitsRead 1 1 s))).bind fun _ s => decBodyLoop n s := by
  have hkey' : readDt { bitsRead 1 1 s with pathBuf := (bitsRead 1 1 s).pathBuf ++ [b] }
      ((bitsRead 1 1 s).pathBuf ++ [b]) = some sym := hkey
  simp only [decBodyLoop, if_neg hrem, rdBits_bit h hb, bind_ok, fieldBits_ofBool, hkey']
  rfl

/-- A pass of the loop whose bit completes none, within MAXDEPTH. -/
theorem decBodyLoop_of_no_match {b : Bool} {n : Nat} {s : State} {rest : Bits} (h : s.quiet)
    (hrem : s.rem ≠ 0#32) (hb : s.bitsAhead = b :: rest) (hkey : readDt s (s.pathBuf ++ [b]) = none)
    (hdepth : (s.pathBuf ++ [b]).length ≤ s.maxDepth.toNat) :
    decBodyLoop (n + 1) s = decBodyLoop n (withPath (s.pathBuf ++ [b]) (bitsRead 1 1 s)) := by
  have hkey' : readDt { bitsRead 1 1 s with pathBuf := (bitsRead 1 1 s).pathBuf ++ [b] }
      ((bitsRead 1 1 s).pathBuf ++ [b]) = none := hkey
  have hdepth' : ¬ (bitsRead 1 1 s).maxDepth.toNat < ((bitsRead 1 1 s).pathBuf ++ [b]).length := Nat.not_lt.2 hdepth
  simp only [decBodyLoop, if_neg hrem, rdBits_bit h hb, bind_ok, fieldBits_ofBool, hkey', if_neg hdepth']
  rfl

/-- Reading the rest `r` of a code word, of which PATHBUF holds the beginning and which no shorter key cuts off: one
pass a bit, and then its symbol is emitted. -/
theorem decBodyLoop_of_code {p r rest : Bits} {n : Nat} {s : State} {sym : Symbol} (h : s.quiet) (hrem : s.rem ≠ 0#32)
    (hp : p = s.pathBuf ++ r) (hr : r ≠ []) (hb : s.bitsAhead = r ++ rest) (hkey : readDt s p = some sym)
    (hshort : ∀ q ∈ p.inits, q ≠ p → q ≠ [] → readDt s q = none) (hdepth : p.length ≤ s.maxDepth.toNat) :
    ∃ k, decBodyLoop (n + r.length) s =
      (emitSymbol sym (withPath p (bitsRead r.length k s))).bind fun _ s => decBodyLoop n s := by
  induction r generalizing s with
  | nil => exact absurd rfl hr
  | cons b r ih =>
    by_cases hlast : r = []
    · subst hlast hp
      exact ⟨1, decBodyLoop_of_match h hrem hb hkey⟩
    · let u := withPath (s.pathBuf ++ [b]) (bitsRead 1 1 s)
      have hp' : p = s.pathBuf ++ [b] ++ r := hp.trans (by simp)
      have hprefix : s.pathBuf ++ [b] <+: p := hp' ▸ List.prefix_append _ _
      have hnone : readDt s (s.pathBuf ++ [b]) = none :=
        hshort _ ((List.mem_inits _ _).2 hprefix) (fun e => hlast (by simpa [hp'] using e)) (by simp)
      obtain ⟨k, hk⟩ := ih (s := u) (quiet_bitsRead h 1 1) hrem hp' hlast
        (bitsAhead_bitsRead (bs := [b]) hb 1) hkey hshort hdepth
      refine ⟨1 + k, ?_⟩
      rw [List.length_cons, ← Nat.add_assoc, decBodyLoop_of_no_match h hrem hb hnone
        (hprefix.length_le.trans hdepth), hk]
      have hboth : withPath p (bitsRead r.length k u) = withPath p (bitsRead r.length k (bitsRead 1 1 s)) := rfl
      rw [hboth, bitsRead_bitsRead, Nat.add_comm 1 r.length]

/-! ### The bytes of the symbols (R70, R142) -/

/-- A symbol has two bytes to give, or one where one remains. -/
theorem length_symbolBytes {n : Nat} (hn : 1 ≤ n) (sym : Symbol) : (symbolBytes n sym).length = min 2 n := by
  unfold symbolBytes
  split
  · simp only [List.length_cons, List.length_nil]; omega
  · simp only [List.length_cons, List.length_nil]; omega

/-- The first symbol's bytes and then those of the others, as many as remain. -/
theorem take_pickBytes_cons (e : Symbol × Bits) (picks : List (Symbol × Bits)) {n : Nat} (hn : 1 ≤ n) :
    (pickBytes (e :: picks)).take n = symbolBytes n e.1 ++ (pickBytes picks).take (n - min 2 n) := by
  have hcons : pickBytes (e :: picks) = hi8 e.1 :: lo8 e.1 :: pickBytes picks := rfl
  by_cases h2 : 2 ≤ n
  · obtain ⟨m, rfl⟩ := Nat.exists_eq_add_of_le' h2
    simp [hcons, symbolBytes]
  · obtain rfl : n = 1 := by omega
    simp [hcons, symbolBytes]

/-- Matching depends on DT and MAXDEPTH alone. -/
theorem matchesEach_congr {s t : State} {picks : List (Symbol × Bits)} (hdt : t.dt = s.dt)
    (hdepth : t.maxDepth = s.maxDepth) (h : s.matchesEach picks) : t.matchesEach picks := by
  have hread : ∀ p, readDt t p = readDt s p := fun p => by rw [readDt, hdt, readDt]
  simpa only [State.matchesEach, hread, hdepth] using h

/-- DEC_BODY's loop on whole code words (R142): the bytes of their symbols go out, as many as remain. -/
theorem decBodyLoop_quiet (picks : List (Symbol × Bits)) {n : Nat} {s : State} {rest : Bits} (h : s.quiet)
    (hpicks : s.matchesEach picks) (hlen : picks.length = (s.rem.toNat + 1) / 2) (hpath : s.pathBuf = [])
    (hb : s.bitsAhead = pickBits picks ++ rest) (hn : (pickBits picks).length < n) :
    ∃ t, decBodyLoop n s = .ok () t ∧
      t = { s with
        outBytes := s.outBytes ++ (pickBytes picks).take s.rem.toNat
        inBits := { s.inBits with pos := s.inBits.pos + (pickBits picks).length }
        ioAnswers := t.ioAnswers, rem := t.rem, pathBuf := t.pathBuf } := by
  induction picks generalizing n s with
  | nil =>
    have hrem : s.rem = 0#32 := BitVec.eq_of_toNat_eq (by simp at hlen ⊢; omega)
    obtain ⟨m, rfl⟩ : ∃ m, n = m + 1 := ⟨n - 1, by omega⟩
    exact ⟨s, by rw [decBodyLoop, if_pos hrem], by simp [pickBytes, pickBits]⟩
  | cons e picks ih =>
    obtain ⟨⟨hne, hdepth, hkey, hshort⟩, hrest⟩ := List.forall_mem_cons.1 hpicks
    have hpos : 1 ≤ s.rem.toNat := by simp only [List.length_cons] at hlen; omega
    have hrem : s.rem ≠ 0#32 := fun e => by simp [e] at hpos
    have hb' : s.bitsAhead = e.2 ++ (pickBits picks ++ rest) := by rw [hb, ← List.append_assoc]; rfl
    have hbits : (pickBits (e :: picks)).length = e.2.length + (pickBits picks).length := List.length_append
    obtain ⟨m, rfl⟩ : ∃ m, n = m + e.2.length := ⟨n - e.2.length, by omega⟩
    obtain ⟨k, hk⟩ := decBodyLoop_of_code (n := m) h hrem (by rw [hpath]; rfl) hne hb' hkey hshort hdepth
    let u := withPath e.2 (bitsRead e.2.length k s)
    have hu : u.quiet := quiet_bitsRead h e.2.length k
    obtain ⟨out, hout⟩ : ∃ out, out = symbolBytes s.rem.toNat e.1 := ⟨_, rfl⟩
    have houtlen : out.length = min 2 s.rem.toNat := hout ▸ length_symbolBytes hpos e.1
    have hemit : emitSymbol e.1 u = .ok () (emitted out u) := hout ▸ emitSymbol_quiet e.1 hu
    have hvrem : (emitted out u).rem.toNat = s.rem.toNat - out.length :=
      toNat_rem_emitted (s := u) (show out.length ≤ s.rem.toNat by omega)
    have hvlen : picks.length = ((emitted out u).rem.toNat + 1) / 2 := by
      simp only [List.length_cons] at hlen
      omega
    have hvb : (emitted out u).bitsAhead = pickBits picks ++ rest :=
      (bitsAhead_emitted out u).trans (bitsAhead_bitsRead hb' k)
    have hvmatch : (emitted out u).matchesEach picks :=
      matchesEach_congr (emitted_dt out u) (emitted_maxDepth out u) hrest
    obtain ⟨t, ht, hf⟩ := ih (n := m) (s := emitted out u) (quiet_emitted hu out) hvmatch hvlen rfl hvb (by omega)
    refine ⟨t, by rw [hk, hemit, bind_ok, ht], ?_⟩
    rw [hf, take_pickBytes_cons e picks hpos, hbits, hvrem, ← hout]
    simp [u, emitted, withPath, bitsRead, Nat.add_assoc, houtlen]

/-- DEC_BODY on whole code words (R142): TOTAL bytes go out, and no bit after the last code word is read. -/
theorem decBodyUnit_quiet {s : State} {picks : List (Symbol × Bits)} {rest : Bits} (hhrv : s.hrv = true)
    (hddv : s.ddv = true) (h : s.quiet) (hpicks : s.matchesEach picks)
    (hlen : picks.length = (s.total.toNat + 1) / 2) (hb : s.bitsAhead = pickBits picks ++ rest) :
    ∃ t, decBodyUnit s = .ok () t ∧
      t = { s with
        outBytes := s.outBytes ++ (pickBytes picks).take s.total.toNat
        inBits := { s.inBits with pos := s.inBits.pos + (pickBits picks).length }
        ioAnswers := t.ioAnswers, rem := t.rem, pathBuf := t.pathBuf, draws := t.draws } := by
  let s' : State := { s with rem := s.total, pathBuf := [] }
  have hfuel : (pickBits picks).length < s.inBits.bits.length - s.inBits.pos + 1 := by
    have := congrArg List.length hb
    rw [State.bitsAhead, List.length_drop, List.length_append] at this
    omega
  obtain ⟨t, ht, hf⟩ := decBodyLoop_quiet picks (s := s') h hpicks hlen rfl hb hfuel
  have hrun : decBodyUnit s = .ok () (releasePath t) := by
    simp only [decBodyUnit, hhrv, hddv, Bool.and_self, require_of_true, bind_ok]
    rw [ht, atEnd_ok]
  refine ⟨_, hrun, ?_⟩
  rw [hf]
  rfl

end Sys2Proof.Machine
end

section
/-! SUPPORT. DECOMPRESS of a file that COMPRESS wrote (spec/45_decoder.md R144, R145). -/

namespace Sys2Proof.Machine

open Sys2Proof

theorem length_codesOf (o : Option CodeTree) : (codesOf o).length = leavesOf o := by
  cases o with
  | none => rfl
  | some T => exact T.length_codes

/-- DECOMPRESS on a file of a tree of at most 65536 leaves and code words of it (R144): the bytes of their symbols go
out, TOTAL of them, whatever follows in the file. -/
theorem decompressUnit_of_file {s : State} {o : Option CodeTree} {picks : List (Symbol × Bits)} {n : Nat} {rest : Bits}
    (h : s.quiet) (hn : n ≤ 2 ^ 32 - 1) (hmax : leavesOf o ≤ Config.maxLeaves) (hpicks : ∀ e ∈ picks, e ∈ codesOf o)
    (hlen : picks.length = (n + 1) / 2) (hb : s.bitsAhead = fileOf n o (pickBits picks) ++ rest) :
    ∃ t, decompressUnit s = .ok () t ∧ t.outBytes = s.outBytes ++ (pickBytes picks).take n ∧ t.status = 0x00#8 := by
  let l : Word32 := BitVec.ofNat 32 (leavesOf o)
  let s₁ : State := bitsRead 64 2 { clearCore s with flags := hrvMask, total := BitVec.ofNat 32 n, leafCnt := l }
  have hmax' := hmax
  simp only [Config.maxLeaves] at hmax'
  have hl : l.toNat = leavesOf o := by rw [BitVec.toNat_ofNat, Nat.mod_eq_of_lt (by omega)]
  have htotal : (BitVec.ofNat 32 n).toNat = n := by rw [BitVec.toNat_ofNat, Nat.mod_eq_of_lt (by omega)]
  have hzero : l = 0#32 → BitVec.ofNat 32 n = 0#32 := fun e => by
    have hcodes : codesOf o = [] := List.length_eq_zero_iff.1 (by rw [length_codesOf, ← hl, e]; rfl)
    have hnil : picks = [] := List.eq_nil_iff_forall_not_mem.2 fun e he => List.not_mem_nil (hcodes ▸ hpicks e he)
    rw [hnil, List.length_nil] at hlen
    obtain rfl : n = 0 := by omega
    rfl
  have hb₁ : (clearCore s).bitsAhead =
      (fieldBits (BitVec.ofNat 32 n) ++ fieldBits l) ++ (treeBitsOf o ++ (pickBits picks ++ rest)) := by
    rw [show (clearCore s).bitsAhead = s.bitsAhead from rfl, hb, fileOf]
    simp only [List.append_assoc, l]
  have h₁ : hdrRdUnit (clearCore s) = .ok () s₁ :=
    hdrRdUnit_of_header h (hb₁.trans (List.append_assoc _ _ _)) (hl ▸ hmax) hzero
  have hb₂ : s₁.bitsAhead = treeBitsOf o ++ (pickBits picks ++ rest) := by
    have := bitsAhead_bitsRead hb₁ 2
    rwa [List.length_append, length_fieldBits, length_fieldBits] at this
  obtain ⟨s₂, h₂, ho, hq₂, hb₃, hf₂⟩ := treeRdUnit_of_tree (s := s₁)
    (show hrvMask.getLsbD 4 = true by decide) (quiet_bitsRead (s := clearCore s) h 64 2)
    hl hmax hb₂
  have hflags₂ : s₂.flags = hrvMask &&& ~~~(trvMask ||| devMask ||| ddvMask) ||| trvMask := by rw [hf₂]; rfl
  obtain ⟨s₃, h₃, hread, hdepth, hf₃⟩ := dictDecUnit_of_holds (by rw [State.trv, hflags₂]; rfl) ho hmax
  have hflags₃ : s₃.flags = 0b11010#5 := by
    rw [show s₃.flags = s₂.flags &&& ~~~ddvMask ||| ddvMask by rw [hf₃], hflags₂]
    decide
  have htotal₃ : s₃.total = BitVec.ofNat 32 n := by rw [hf₃, hf₂]; rfl
  obtain ⟨t, h₄, hf₄⟩ := decBodyUnit_quiet (s := s₃) (by rw [State.hrv, hflags₃]; rfl) (by rw [State.ddv, hflags₃]; rfl)
    (by rw [hf₃]; exact hq₂) (matchesEach_of_mem_codesOf hread hdepth hpicks) (by rw [htotal₃, htotal, hlen])
    (show s₃.bitsAhead = pickBits picks ++ rest by rw [hf₃]; exact hb₃)
  have hrun : decompressUnit s = .ok () t := by
    rw [decompressUnit, clearUnit, bind_ok, h₁, bind_ok, h₂, bind_ok, h₃, bind_ok, h₄]
  refine ⟨t, hrun, ?_, ?_⟩
  · rw [show t.outBytes = s₃.outBytes ++ (pickBytes picks).take s₃.total.toNat by rw [hf₄], htotal₃, htotal, hf₃, hf₂]
    rfl
  · rw [hf₄, hf₃, hf₂]
    rfl

/-! ### The round trip (R145) -/

/-- The symbols of the input under the code words of a state's CT. -/
def coded (s : State) (xs : List Symbol) : List (Symbol × Bits) := xs.map fun x => (x, s.codeOf x)

theorem pickBits_coded (s : State) (xs : List Symbol) : pickBits (coded s xs) = xs.flatMap s.codeOf := by
  simp [pickBits, coded, List.flatMap_map]

theorem hi8_symbolOf (a b : Byte) : hi8 (symbolOf a b) = a := BitVec.extractLsb'_append_eq_left

theorem lo8_symbolOf (a b : Byte) : lo8 (symbolOf a b) = b := BitVec.extractLsb'_append_eq_right

/-- The bytes of the input's symbols are the input, but for the low byte 0 of an odd last one (R80). -/
theorem take_pickBytes_coded (s : State) (X : List Byte) : (pickBytes (coded s (symbols X))).take X.length = X := by
  induction X using symbols.induct with
  | case1 => rfl
  | case2 b => simp [symbols, coded, pickBytes, hi8_symbolOf]
  | case3 b1 b2 rest ih =>
    have hcons : pickBytes (coded s (symbols (b1 :: b2 :: rest))) =
        hi8 (symbolOf b1 b2) :: lo8 (symbolOf b1 b2) :: pickBytes (coded s (symbols rest)) := rfl
    rw [hcons, hi8_symbolOf, lo8_symbolOf, List.length_cons, List.length_cons, List.take_succ_cons, List.take_succ_cons,
      ih]

/-- Settles O52: the file holds the code words of the input's symbols under one tree, and DECOMPRESS reads that tree
back, matches those code words and emits as many bytes of their symbols as the input had. -/
theorem decompressOfCompressIsTheInput : Obligations.DecompressOfCompressIsTheInput := by
  intro s t u X hs hX hlen hout hcompress hu hin houtBytes
  obtain ⟨t', o, file, hrun, hmax, hcodes, hfile, hout'⟩ := compressUnit_quiet hs hX hlen
  obtain rfl : t' = t := by
    have hexec : exec .compress s = .next t' := congrArg Flow.outcome hrun
    exact Host.Outcome.next.inj (hexec.symm.trans hcompress)
  rw [hout, List.nil_append, ← pickBits_coded] at hfile
  have hbits : u.bitsAhead = fileOf X.length o (pickBits (coded t' (symbols X))) ++ padding file.length := by
    rw [State.bitsAhead, hin, ← hfile]
    exact hout'
  have hpicks : ∀ e ∈ coded t' (symbols X), e ∈ codesOf o := fun e he => by
    obtain ⟨x, hx, rfl⟩ := List.mem_map.1 he
    exact hcodes x hx
  obtain ⟨v, hv, hbytes, hstatus⟩ := decompressUnit_of_file hu hlen hmax hpicks
    (by rw [coded, List.length_map, length_symbols]) hbits
  refine ⟨v, congrArg Flow.outcome hv, ?_, hstatus⟩
  rw [hbytes, houtBytes, List.nil_append, take_pickBytes_coded]

end Sys2Proof.Machine
end

section
/-! SUPPORT. Dispatch of a command word (spec/46_control.md R150, R151, R154): which words decode, and what a step does with
one that runs no instruction. -/

namespace Sys2Proof.Machine

open Sys2Proof

/-! ### The legal words (30_encoding.md R62, R63) -/

/-- R62: every opcode up to 0xD but FT_WRITE's is that of a command without operands. -/
theorem plainCommand_isSome_iff (op : Opcode) : (plainCommand op).isSome = true ↔ op ≠ 0x1#4 ∧ op.toNat ≤ 0xD := by
  revert op; decide

/-- The causes of R63, of which a word that is not well formed has at least one. -/
theorem commandWellFormed_eq_false_iff (w : CmdWord) :
    commandWellFormed w = false ↔
      0xE ≤ (opField w).toNat ∨ (opField w ≠ 1#4 ∧ operandField w ≠ 0#60) ∨
        (opField w = 1#4 ∧ reservedField w ≠ 0#12) := by
  by_cases hop : opField w = 0x1#4
  · simp [commandWellFormed, hop]
  · simp [commandWellFormed, hop, Nat.succ_le_iff, imp_iff_not_or]

/-- The decoder reads an instruction from the well-formed words and from no others. -/
theorem exists_decode_command_eq_ok_iff (w : CmdWord) :
    (∃ i, decode (.command w) = .ok i) ↔ commandWellFormed w = true := by
  rw [show decode (.command w) = decodeCommand w from rfl, decodeCommand, commandWellFormed]
  by_cases hop : opField w = 0x1#4
  · by_cases hrsv : reservedField w = 0#12 <;> simp [hop, hrsv]
  · have hplain := plainCommand_isSome_iff (opField w)
    cases hi : plainCommand (opField w) with
    | none =>
      have hbig : ¬(opField w).toNat ≤ 0xD := fun hle => by simp [hi, hop, hle] at hplain
      simp [hop, hbig]
    | some i =>
      have hle : (opField w).toNat ≤ 0xD := (hplain.1 (by rw [hi]; rfl)).2
      by_cases hoperand : operandField w = 0#60 <;> simp [hop, hle, hoperand]

theorem exists_decode_command_eq_error {w : CmdWord} (h : commandWellFormed w = false) :
    ∃ e, decode (.command w) = .error e := by
  cases hd : decode (.command w) with
  | error e => exact ⟨e, rfl⟩
  | ok i =>
    have hwf := (exists_decode_command_eq_ok_iff w).1 ⟨i, hd⟩
    rw [h] at hwf; cases hwf

/-! ### Words that run no instruction (R151, R154) -/

section Dispatch

variable {s t : State} {w : CmdWord} {rest : List HostEvent}

/-- R151, the sticky-error test. -/
theorem dispatchWord_of_isError (herr : s.isError = true) (hw : w ≠ 0#64) : dispatchWord w s = .settled s := by
  simp [dispatchWord, herr, hw]

/-- R154, the illegal-word test. -/
theorem dispatchWord_of_illegal (herr : s.isError = false) (hw : commandWellFormed w = false) :
    dispatchWord w s = .settled (raise .illegalCommand (opField w) s) := by
  obtain ⟨e, he⟩ := exists_decode_command_eq_error hw
  simp [dispatchWord, herr, he]

/-- An idle step takes the host's word off the list and dispatches it (R150). -/
theorem step_of_dispatchWord_settled (hphase : s.phase = .idle) (hhost : s.host = .command w :: rest)
    (h : dispatchWord w { s with host := rest } = .settled t) : step s = .next t := by
  have hfetch : fetchNext s = .settled t := by simpa [fetchNext, hphase, hhost, hostEvent] using h
  rw [step, hfetch]

end Dispatch

/-- Fault entry with the sequencer already idle writes STATUS and ERR_OFFSET, and takes a draw for the latter (R170). -/
theorem raise_of_idle {s : State} (h : s.phase = .idle) (k : ErrKind) (g : Opcode) :
    raise k g s =
      { s with status := statusWord k g, errOffset := Config.errOffset s.draws, draws := s.draws + 1 } := by
  rw [raise, ← h]

/-- Settles O8: the sticky-error test comes before the word is decoded. -/
theorem errorStateIgnoresEveryWordButClear : Obligations.ErrorStateIgnoresEveryWordButClear := by
  intro s w rest hphase hhost herr hw
  exact step_of_dispatchWord_settled hphase hhost (dispatchWord_of_isError herr hw)

/-- Settles O9: the three causes of R63 are exactly the ways a word fails to be well formed, and the decoder refuses
exactly those words. -/
theorem illegalWordsRaiseIllegalCommand : Obligations.IllegalWordsRaiseIllegalCommand := by
  intro s w rest hphase hhost herr
  have hcauses := commandWellFormed_eq_false_iff w
  refine ⟨fun hw => ?_, fun hw => ?_⟩
  · rw [step_of_dispatchWord_settled hphase hhost (dispatchWord_of_illegal herr (hcauses.2 hw)),
      raise_of_idle (s := { s with host := rest }) hphase]
    rfl
  · have hlegal : commandWellFormed w = true := Bool.eq_true_of_not_eq_false fun hbad => hw (hcauses.1 hbad)
    exact (exists_decode_command_eq_ok_iff w).2 hlegal

end Sys2Proof.Machine
end

section
/-! SUPPORT. IOFAULT (spec/60_exceptions.md R161): a faulting stream call cuts off whatever would follow it; with it the
statement of this unit. -/

namespace Sys2Proof.Machine

open Sys2Proof

/-- The continuation of a faulting call, which holds all the effect of a stream primitive, does not run. -/
theorem ioCall_bind_of_fault {β : Type} {g : Opcode} {s : State} {rest : List Bool} (h : s.ioAnswers = true :: rest)
    (next : Unit → State → Flow β) :
    (ioCall g s).bind next = .ended (raise .ioError g (setIo rest s)) := by
  rw [ioCall_fault h, bind_ended]

/-- Settles O12: each stream primitive is one call followed by its effect, and a fault of the call cuts the effect off. -/
theorem ioFaultRaisesIoErrorBeforeAnyEffect : Obligations.IoFaultRaisesIoErrorBeforeAnyEffect := by
  intro stage s rest hfault
  exact ⟨ioCall_bind_of_fault hfault _, fun _ => ioCall_bind_of_fault hfault _,
    fun _ _ => ioCall_bind_of_fault hfault _, fun _ => ioCall_bind_of_fault hfault _,
    ioCall_bind_of_fault hfault _⟩

end Sys2Proof.Machine
end

section
/-! SUPPORT. Encoding (spec/30_encoding.md R61 to R71): a command word is its fields put together again, a token ends
where its flag says, and the tokens of a tree are a postorder; with these the statements of this unit. -/

namespace Sys2Proof

/-! ### Fields and bit sequences (R61, 00_scope.md R7) -/

/-- Bit `i` from the right of a bit sequence is bit `i` of its value. -/
theorem testBit_bitsValue (bs : Bits) (i : Nat) : (bitsValue bs).testBit i = bs.reverse.getD i false := by
  induction bs using List.reverseRecOn generalizing i with
  | nil => simp [bitsValue]
  | append_singleton bs b ih =>
    rw [bitsValue_snoc, ← Nat.bit_val, List.reverse_append, List.reverse_singleton, List.singleton_append]
    cases i with
    | zero => simp
    | succ i => rw [Nat.testBit_bit_succ, ih, List.getD_cons_succ]

/-- A bit sequence is the field of its value. -/
theorem fieldBits_ofNat_bitsValue {n : Nat} (bs : Bits) (h : bs.length = n) :
    fieldBits (BitVec.ofNat n (bitsValue bs)) = bs := by
  subst h
  refine List.ext_getElem (by simp) fun i hi hi' => ?_
  have hbit : bs.reverse.getD (bs.length - 1 - i) false = bs[i] := by
    rw [List.getD_eq_getElem _ _ (by simp; omega), List.getElem_reverse]
    congr 1
    omega
  have hlt : bs.length - 1 - i < bs.length := by omega
  simp only [fieldBits, List.getElem_map, List.getElem_range, BitVec.getLsbD_ofNat, hlt, decide_true, Bool.true_and,
    testBit_bitsValue, hbit]

theorem symField_ftWriteWord (sym : Symbol) (count : Word32) : symField (ftWriteWord sym count) = sym := by
  apply BitVec.eq_of_getLsbD_eq
  intro i hi
  have h12 : ¬ 44 + i < 12 := by omega
  have h32 : ¬ 44 + i - 12 < 32 := by omega
  have h16 : 44 + i - 12 - 32 = i := by omega
  rw [symField, BitVec.getLsbD_extractLsb', getLsbD_ftWriteWord, if_neg h12, if_neg h32, h16, if_pos hi]
  simp [hi]

theorem countField_ftWriteWord (sym : Symbol) (count : Word32) : countField (ftWriteWord sym count) = count := by
  apply BitVec.eq_of_getLsbD_eq
  intro i hi
  have h12 : ¬ 12 + i < 12 := by omega
  have h32 : 12 + i - 12 = i := by omega
  rw [countField, BitVec.getLsbD_extractLsb', getLsbD_ftWriteWord, if_neg h12, h32, if_pos hi]
  simp [hi]

/-- Fields that stand side by side in a word, put together again. -/
theorem extractLsb'_append_extractLsb' {n start len len' : Nat} (w : BitVec n) :
    w.extractLsb' (start + len) len' ++ w.extractLsb' start len = w.extractLsb' start (len' + len) :=
  BitVec.extractLsb'_append_extractLsb'_eq_extractLsb' rfl

/-- A word whose operand bits are zero is its opcode's word. -/
theorem commandWord_opField {w : CmdWord} (h : operandField w = 0#60) : commandWord (opField w) = w := by
  rw [commandWord, ← h]
  exact (extractLsb'_append_extractLsb' (start := 0) (len := 60) (len' := 4) w).trans BitVec.extractLsb'_eq_self

/-- A word with FT_WRITE's opcode and its reserved bits zero is FT_WRITE's word of its fields. -/
theorem ftWriteWord_fields {w : CmdWord} (hop : opField w = 0x1#4) (hrsv : reservedField w = 0#12) :
    ftWriteWord (symField w) (countField w) = w := by
  rw [ftWriteWord, ← hop, ← hrsv]
  have hsym : opField w ++ symField w = w.extractLsb' 44 20 :=
    extractLsb'_append_extractLsb' (start := 44) (len := 16) (len' := 4) w
  have hcount : opField w ++ symField w ++ countField w = w.extractLsb' 12 52 :=
    (congrArg (· ++ countField w) hsym).trans
      (extractLsb'_append_extractLsb' (start := 12) (len := 32) (len' := 20) w)
  exact (congrArg (· ++ reservedField w) hcount).trans
    ((extractLsb'_append_extractLsb' (start := 0) (len := 12) (len' := 52) w).trans BitVec.extractLsb'_eq_self)

/-! ### Command words (R61 to R63) -/

/-- A command without operands has the word of its opcode (R62). -/
theorem encode_of_plainCommand {op : Opcode} {i : Instr} (h : plainCommand op = some i) :
    encode i = .command (commandWord op) := by
  have hall : ∀ op : Opcode, (plainCommand op).all fun i => decide (encode i = .command (commandWord op)) := by decide
  simpa [h] using hall op

theorem decodeCommand_commandWord {op : Opcode} {i : Instr} (hop : op ≠ 0x1#4) (h : plainCommand op = some i) :
    decodeCommand (commandWord op) = .ok i := by
  simp [decodeCommand, opField_commandWord, operandField_commandWord, hop, h]

theorem decodeCommand_ftWriteWord (sym : Symbol) (count : Word32) :
    decodeCommand (ftWriteWord sym count) = .ok (.ftWrite sym count) := by
  simp [decodeCommand, opField_ftWriteWord, reservedField_ftWriteWord, symField_ftWriteWord, countField_ftWriteWord]

/-- The word an instruction was decoded from is its encoding: FT_WRITE's fields, or an opcode of R62 over zeros. -/
theorem encode_of_decodeCommand {w : CmdWord} {i : Instr} (h : decodeCommand w = .ok i) : encode i = .command w := by
  rw [decodeCommand] at h
  split at h
  · next hop =>
    split at h
    · next hrsv =>
      cases h
      exact congrArg Code.command (ftWriteWord_fields hop hrsv)
    · cases h
  · split at h
    · cases h
    · next j hj =>
      split at h
      · next hoperand =>
        cases h
        rw [encode_of_plainCommand hj, commandWord_opField hoperand]
      · cases h

/-! ### Tokens (R65, R66, R71) -/

/-- The decoder reads a token from the bits the encoder wrote, and leaves what stands after them. -/
theorem decodeToken_encodeToken_append (t : Token) (rest : Bits) :
    decodeToken (encodeToken t ++ rest) = .ok (t, rest) := by
  cases t with
  | leaf sym =>
    have htake : (fieldBits sym ++ rest).take 16 = fieldBits sym := List.take_left' (length_fieldBits sym)
    have hdrop : (fieldBits sym ++ rest).drop 16 = rest := List.drop_left' (length_fieldBits sym)
    simp [encodeToken, decodeToken, payloadWidth, tokenOf, htake, hdrop]
  | merge => simp [encodeToken, decodeToken, payloadWidth, tokenOf]

/-- The bits a token was decoded from are its encoding and the bits left over. -/
theorem encodeToken_of_decodeToken {bits rest : Bits} {t : Token} (h : decodeToken bits = .ok (t, rest)) :
    bits = encodeToken t ++ rest := by
  cases bits with
  | nil => cases h
  | cons flag bits =>
    rw [decodeToken] at h
    split at h
    · cases h
    · next hlen =>
      cases flag with
      | false =>
        cases h
        rfl
      | true =>
        cases h
        have hpayload : (bits.take 16).length = 16 := List.length_take_of_le (by simpa [payloadWidth] using hlen)
        have hbits : fieldBits (BitVec.ofNat 16 (bitsValue (bits.take 16))) ++ bits.drop 16 = bits := by
          rw [fieldBits_ofNat_bitsValue _ hpayload, List.take_append_drop]
        exact (congrArg (true :: ·) hbits).symm

theorem decode_encodeToken (t : Token) : decode (.token (encodeToken t)) = .ok t.instr := by
  have h := decodeToken_encodeToken_append t []
  rw [List.append_nil] at h
  rw [decode, h]

theorem encode_instr (t : Token) : encode t.instr = .token (encodeToken t) := by cases t <;> rfl

/-! ### The statements about single codes -/

/-- Settles O1: a command word gives its opcode and operands back, and a token its symbol. -/
theorem decodeOfEncodeIsTheInstruction : Obligations.DecodeOfEncodeIsTheInstruction := by
  intro i
  cases i with
  | ftWrite sym count => exact decodeCommand_ftWriteWord sym count
  | tLeaf sym => exact decode_encodeToken (.leaf sym)
  | tMerge => exact decode_encodeToken .merge
  | _ => exact decodeCommand_commandWord (by decide) rfl

/-- Settles O2: a command word, and the bits of a token, are put together again from the fields that were decoded. -/
theorem everyCodeOfAnInstructionIsItsEncoding : Obligations.EveryCodeOfAnInstructionIsItsEncoding := by
  intro c i h
  cases c with
  | command w => exact encode_of_decodeCommand h
  | token bits =>
    rw [decode] at h
    split at h
    · cases h
    · next t ht =>
      cases h
      rw [encode_instr, encodeToken_of_decodeToken ht, List.append_nil]
    · cases h

/-- Settles O3, by decoding each word. -/
theorem writtenOutWordsDecode : Obligations.WrittenOutWordsDecode := by
  unfold Obligations.WrittenOutWordsDecode
  decide

/-- Settles O4: the flag bit says how many bits follow. -/
theorem tokenEndsWhereItsFlagSays : Obligations.TokenEndsWhereItsFlagSays := decodeToken_encodeToken_append

end Sys2Proof

namespace Sys2Proof.Machine

open Sys2Proof

/-! ### The tokens of a tree (R67) -/

/-- The tokens of a tree add one complete subtree, whatever stands before and after them. -/
theorem treeDepth_tokens_append (T : CodeTree) (depth : Nat) (ts : List Token) :
    treeDepth depth (T.tokens ++ ts) = treeDepth (depth + 1) ts := by
  induction T generalizing depth ts with
  | leaf sym => rfl
  | node l r hl hr =>
    simp only [CodeTree.tokens, List.append_assoc, hl, hr, List.singleton_append]
    rw [treeDepth, if_neg (by omega), Nat.add_sub_cancel]

/-- A tree of L leaves has L leaf tokens of 17 bits and L - 1 merge tokens of one bit. -/
theorem length_tokenBits (T : CodeTree) : T.tokenBits.length + 1 = 18 * T.leaves := by
  induction T with
  | leaf sym => simp [CodeTree.tokenBits, CodeTree.tokens, CodeTree.leaves, encodeToken]
  | node l r hl hr =>
    simp only [CodeTree.tokenBits] at hl hr
    simp only [CodeTree.tokenBits, CodeTree.tokens, CodeTree.leaves, List.flatMap_append, List.length_append,
      List.flatMap_singleton, encodeToken, List.length_singleton]
    omega

/-- Settles O5: by the structure of the tree. -/
theorem treeTokensAreWellFormedAndHaveTheStatedLength :
    Obligations.TreeTokensAreWellFormedAndHaveTheStatedLength := by
  intro T
  have hdepth : treeDepth 0 T.tokens = some 1 := by simpa [treeDepth] using treeDepth_tokens_append T 0 []
  exact ⟨by simp [treeWellFormed, hdepth], length_tokenBits T⟩

end Sys2Proof.Machine
end

section
/-! SUPPORT. DictionaryCodec (spec/42_dictionary_codec.md): which tree the walk of R105 has found, what DICT_ENC and
DICT_DEC can do, said once, and with these the statements of this unit. -/

namespace Sys2Proof.Machine

open Sys2Proof

/-! ### The tree behind the paths (R105, R108, R109) -/

/-- A walk that ends has found the paths of a tree that stands there. -/
theorem exists_standsAt_of_walk {s : State} {n : Nat} {i : NodeIdx} {p : Bits} {ps : List (Symbol × Bits)}
    (h : walk s n i p = some ps) :
    ∃ T : CodeTree, T.standsAt s i = true ∧ ps = T.paths.map fun e => (e.1, p ++ e.2) := by
  induction n generalizing i p ps with
  | zero => cases h
  | succ n ih =>
    rw [walk] at h
    split at h
    · next sym w hread =>
      cases h
      exact ⟨.leaf sym, CodeTree.standsAt_leaf.2 ⟨w, hread⟩, by simp [CodeTree.paths]⟩
    · next w l r hread =>
      split at h
      · cases h
      · next left hleft =>
        split at h
        · cases h
        · next right hright =>
          cases h
          obtain ⟨L, hL, rfl⟩ := ih hleft
          obtain ⟨R, hR, rfl⟩ := ih hright
          exact ⟨.node L R, CodeTree.standsAt_node.2 ⟨w, l, r, hread, hL, hR⟩,
            by simp [CodeTree.paths, Function.comp_def]⟩

/-- The pairs both dictionaries are made of are the code words of the tree the state holds. -/
theorem exists_holds_of_treePaths {s : State} {ps : List (Symbol × Bits)} (h : treePaths s = some ps) :
    ∃ o, s.holds o ∧ ps = codesOf o := by
  rw [treePaths] at h
  split at h
  · next hroot =>
    cases h
    exact ⟨none, hroot, rfl⟩
  · next r hroot =>
    split at h
    · next sym w hread =>
      cases h
      have hstands : (CodeTree.leaf sym).standsAt s r = true := CodeTree.standsAt_leaf.2 ⟨w, hread⟩
      exact ⟨some (.leaf sym), by simpa [State.holds, State.hasTree, hroot] using hstands, rfl⟩
    · next w a b hread =>
      obtain ⟨T, hT, rfl⟩ := exists_standsAt_of_walk h
      refine ⟨some T, by simpa [State.holds, State.hasTree, hroot] using hT, ?_⟩
      cases T with
      | leaf sym =>
        obtain ⟨w', hleaf⟩ := CodeTree.standsAt_leaf.1 hT
        rw [hread] at hleaf
        cases hleaf
      | node L R => simp [codesOf, CodeTree.codes]

theorem walk_congr {s t : State} (h : ∀ i, readNode t i = readNode s i) (n : Nat) (i : NodeIdx) (p : Bits) :
    walk t n i p = walk s n i p := by
  induction n generalizing i p with
  | zero => rfl
  | succ n ih => simp only [walk, h, ih]

/-- The paths depend on ROOT and NODE alone. -/
theorem treePaths_congr {s t : State} (hroot : t.root = s.root) (hnode : t.node = s.node) :
    treePaths t = treePaths s := by
  have hread := readNode_congr hnode
  simp only [treePaths, hroot, hread, walk_congr hread]

/-! ### What the two commands can do (R106, R107) -/

/-- CT as DICT_ENC fills it from these pairs. -/
def encodeTable (ps : List (Symbol × Bits)) : Table Symbol Bits := (fillCt ps State.reset).ct

/-- DT as DICT_DEC fills it from these pairs. -/
def decodeTable (ps : List (Symbol × Bits)) : Table Bits Symbol := (fillDt ps State.reset).dt

theorem fillCt_ct_congr (ps : List (Symbol × Bits)) {s t : State} (h : s.ct = t.ct) :
    (fillCt ps s).ct = (fillCt ps t).ct := by
  induction ps generalizing s t with
  | nil => exact h
  | cons e ps ih => exact ih (congrArg (fun c => Table.put symRank c e.1 e.2) h)

theorem fillDt_dt_congr (ps : List (Symbol × Bits)) {s t : State} (h : s.dt = t.dt) :
    (fillDt ps s).dt = (fillDt ps t).dt := by
  induction ps generalizing s t with
  | nil => exact h
  | cons e ps ih => exact ih (congrArg (fun c => Table.put pathRank c e.2 e.1) h)

theorem fillCt_of_empty (ps : List (Symbol × Bits)) {s : State} (h : s.ct = []) :
    fillCt ps s = { s with ct := encodeTable ps } := by
  rw [fillCt_frame, encodeTable, fillCt_ct_congr ps (t := State.reset) h]

theorem fillDt_of_empty (ps : List (Symbol × Bits)) {s : State} (h : s.dt = []) :
    fillDt ps s = { s with dt := decodeTable ps } := by
  rw [fillDt_frame, decodeTable, fillDt_dt_congr ps (t := State.reset) h]

/-- Clearing flags before setting them makes no difference. -/
theorem and_not_or_self (f m : BitVec 5) : f &&& ~~~m ||| m = f ||| m := by
  ext i hi
  simp only [BitVec.getElem_or, BitVec.getElem_and, BitVec.getElem_not]
  cases m[i] <;> simp

/-- The state after DICT_ENC of these pairs. -/
def encoded (ps : List (Symbol × Bits)) (s : State) : State :=
  { s with ct := encodeTable ps, flags := s.flags ||| devMask }

/-- The state after DICT_DEC of these pairs. -/
def decoded (ps : List (Symbol × Bits)) (s : State) : State :=
  { s with
    dt := decodeTable ps, maxDepth := BitVec.ofNat 17 (longestKey (decodeTable ps)), flags := s.flags ||| ddvMask }

/-- DICT_ENC: SequenceError without a tree, else CT of the tree's pairs, unless the walk does not end. -/
theorem dictEncUnit_cases (s : State) :
    (s.trv = false ∧ dictEncUnit s = .ended (raise .sequenceError 0x4#4 s)) ∨
    (s.trv = true ∧ ∃ ps, treePaths s = some ps ∧ dictEncUnit s = .ok () (encoded ps s)) ∨
    (s.trv = true ∧ treePaths s = none ∧ dictEncUnit s = .stop .walkDiverges) := by
  rcases require_cases s.trv 0x4#4 s with ⟨htrv, hreq⟩ | ⟨htrv, hreq⟩
  · have hpaths : treePaths { clearFlags devMask s with ct := [] } = treePaths s := treePaths_congr rfl rfl
    cases hps : treePaths s with
    | none => exact .inr (.inr ⟨htrv, rfl, by simp only [dictEncUnit, hreq, bind_ok, pathsOf, hpaths, hps, bind_stop]⟩)
    | some ps =>
      refine .inr (.inl ⟨htrv, ps, rfl, ?_⟩)
      simp only [dictEncUnit, hreq, bind_ok, pathsOf, hpaths, hps]
      rw [fillCt_of_empty ps rfl, encoded, ← and_not_or_self]
      rfl
  · exact .inl ⟨htrv, by simp only [dictEncUnit, hreq, bind_ended]⟩

/-- DICT_DEC: SequenceError without a tree, else DT and MAXDEPTH of the tree's pairs, unless the walk does not end. -/
theorem dictDecUnit_cases (s : State) :
    (s.trv = false ∧ dictDecUnit s = .ended (raise .sequenceError 0xB#4 s)) ∨
    (s.trv = true ∧ ∃ ps, treePaths s = some ps ∧ dictDecUnit s = .ok () (decoded ps s)) ∨
    (s.trv = true ∧ treePaths s = none ∧ dictDecUnit s = .stop .walkDiverges) := by
  rcases require_cases s.trv 0xB#4 s with ⟨htrv, hreq⟩ | ⟨htrv, hreq⟩
  · have hpaths : treePaths { clearFlags ddvMask s with dt := [] } = treePaths s := treePaths_congr rfl rfl
    cases hps : treePaths s with
    | none => exact .inr (.inr ⟨htrv, rfl, by simp only [dictDecUnit, hreq, bind_ok, pathsOf, hpaths, hps, bind_stop]⟩)
    | some ps =>
      refine .inr (.inl ⟨htrv, ps, rfl, ?_⟩)
      simp only [dictDecUnit, hreq, bind_ok, pathsOf, hpaths, hps]
      rw [fillDt_of_empty ps rfl, decoded, ← and_not_or_self]
      rfl
  · exact .inl ⟨htrv, by simp only [dictDecUnit, hreq, bind_ended]⟩

theorem dictEncUnit_of_paths {s : State} {ps : List (Symbol × Bits)} (htrv : s.trv = true) (h : treePaths s = some ps) :
    dictEncUnit s = .ok () (encoded ps s) := by
  rcases dictEncUnit_cases s with ⟨hfalse, -⟩ | ⟨-, qs, hqs, hrun⟩ | ⟨-, hnone, -⟩
  · rw [htrv] at hfalse; cases hfalse
  · rw [h] at hqs; cases hqs; exact hrun
  · rw [h] at hnone; cases hnone

theorem dictDecUnit_of_paths {s : State} {ps : List (Symbol × Bits)} (htrv : s.trv = true) (h : treePaths s = some ps) :
    dictDecUnit s = .ok () (decoded ps s) := by
  rcases dictDecUnit_cases s with ⟨hfalse, -⟩ | ⟨-, qs, hqs, hrun⟩ | ⟨-, hnone, -⟩
  · rw [htrv] at hfalse; cases hfalse
  · rw [h] at hqs; cases hqs; exact hrun
  · rw [h] at hnone; cases hnone

theorem exec_dictEnc (s : State) : exec .dictEnc s = (dictEncUnit s).outcome := rfl

theorem exec_dictDec (s : State) : exec .dictDec s = (dictDecUnit s).outcome := rfl

theorem exec_dictEnc_of_paths {s : State} {ps : List (Symbol × Bits)} (htrv : s.trv = true)
    (h : treePaths s = some ps) : exec .dictEnc s = .next (encoded ps s) := by
  rw [exec_dictEnc, dictEncUnit_of_paths htrv h, outcome_ok]

theorem exec_dictDec_of_paths {s : State} {ps : List (Symbol × Bits)} (htrv : s.trv = true)
    (h : treePaths s = some ps) : exec .dictDec s = .next (decoded ps s) := by
  rw [exec_dictDec, dictDecUnit_of_paths htrv h, outcome_ok]

/-! ### What stands in the two tables (R106, R107, R110) -/

theorem readCt_encoded (ps : List (Symbol × Bits)) (s : State) (sym : Symbol) :
    readCt (encoded ps s) sym = (ps.reverse.find? fun e => e.1 == sym).map fun e => e.2 :=
  (readCt_fillCt ps State.reset sym).trans Option.or_none

/-- The keys of the decode table of a tree are its code words. -/
theorem readDt_decoded {o : Option CodeTree} (s : State) (p : Bits) (sym : Symbol) :
    readDt (decoded (codesOf o) s) p = some sym ↔ (sym, p) ∈ codesOf o :=
  readDt_fillDt_codesOf (s := State.reset) rfl p sym

theorem mem_decodeTable {ps : List (Symbol × Bits)} {e : Bits × Symbol} (h : e ∈ decodeTable ps) : (e.2, e.1) ∈ ps := by
  rcases mem_dt_fillDt ps State.reset e h with h | h
  · exact h
  · cases h

/-- A write of a new key adds an entry. -/
theorem length_put {κ α : Type} {rank : κ → Nat} {t : Table κ α} {k : κ} (v : α) (h : Table.find rank t k = none) :
    (Table.put rank t k v).length = t.length + 1 := by
  induction t with
  | nil => rfl
  | cons e t ih =>
    rw [Table.find] at h
    split at h
    · cases h
    · next hne =>
      rw [Table.put]
      split
      · rfl
      · rw [if_neg fun e => hne e.symm, List.length_cons, ih h, List.length_cons]

/-- Distinct paths give as many entries of DT. -/
theorem length_dt_fillDt {ps : List (Symbol × Bits)} {s : State} (hps : (ps.map fun e => e.2).Nodup)
    (hnew : ∀ e ∈ ps, readDt s e.2 = none) : (fillDt ps s).dt.length = s.dt.length + ps.length := by
  induction ps generalizing s with
  | nil => rfl
  | cons e ps ih =>
    obtain ⟨hfirst, hrest⟩ := List.nodup_cons.1 hps
    obtain ⟨he, hnew⟩ := List.forall_mem_cons.1 hnew
    have hlen : (writeDt e.2 e.1 s).dt.length = s.dt.length + 1 := length_put e.1 he
    have hnew' : ∀ d ∈ ps, readDt (writeDt e.2 e.1 s) d.2 = none := fun d hd => by
      have hne : d.2 ≠ e.2 := fun h => hfirst (List.mem_map.2 ⟨d, hd, h⟩)
      rw [readDt_writeDt_other s e.1 hne, hnew d hd]
    calc
      (fillDt ps (writeDt e.2 e.1 s)).dt.length = s.dt.length + 1 + ps.length := by rw [ih hrest hnew', hlen]
      _ = s.dt.length + (e :: ps).length := by rw [List.length_cons]; omega

/-- No two leaves of a tree have the same code word (R109). -/
theorem nodup_paths_codesOf (o : Option CodeTree) : ((codesOf o).map fun e => e.2).Nodup :=
  List.pairwise_map.2 ((pairwise_apart_codesOf o).imp fun {a b} (h : Apart a b) (heq : a.2 = b.2) =>
    h.1 (heq ▸ List.prefix_rfl))

/-- The decode table of a tree has one entry for each leaf. -/
theorem length_decodeTable_codesOf (o : Option CodeTree) : (decodeTable (codesOf o)).length = leavesOf o := by
  rw [decodeTable, length_dt_fillDt (nodup_paths_codesOf o) fun _ _ => rfl, length_codesOf]
  exact Nat.zero_add _

/-- Some key of a non-empty table has the greatest length. -/
theorem exists_length_eq_longestKey {t : Table Bits Symbol} (h : t ≠ []) : ∃ e ∈ t, e.1.length = longestKey t := by
  by_contra hnone
  push Not at hnone
  have hbound := (longestKey_le_iff t _).1 le_rfl
  have hless : longestKey t ≤ longestKey t - 1 := (longestKey_le_iff t _).2 fun e he => by
    have := hbound e he
    have := hnone e he
    omega
  obtain ⟨e, he⟩ := List.exists_mem_of_ne_nil t h
  have := hbound e he
  exact hnone e he (by omega)

/-- MAXDEPTH holds the greatest length exactly: no code word of a tree of at most 65536 leaves is longer. -/
theorem toNat_maxDepth_decoded {o : Option CodeTree} (hmax : leavesOf o ≤ Config.maxLeaves) (s : State) :
    (decoded (codesOf o) s).maxDepth.toNat = longestKey (decodeTable (codesOf o)) := by
  have hlong : longestKey (decodeTable (codesOf o)) ≤ Config.maxLeaves := (longestKey_le_iff _ _).2 fun e he =>
    (length_le_of_mem_codesOf (mem_decodeTable he)).trans hmax
  simp only [Config.maxLeaves] at hlong
  exact (BitVec.toNat_ofNat _ _).trans (Nat.mod_eq_of_lt (by omega))

/-- A code word of the tree is a key of its decode table. -/
theorem mem_decodeTable_of_mem_codesOf {o : Option CodeTree} {e : Symbol × Bits} (h : e ∈ codesOf o) :
    (e.2, e.1) ∈ decodeTable (codesOf o) := by
  obtain ⟨k, hk, hmem⟩ := mem_of_find ((readDt_decoded State.reset e.2 e.1).2 h)
  exact pathRank_inj.1 hk ▸ hmem

/-! ### The statements of this unit -/

/-- Settles O29: CT is filled from the pairs in emission order, so each symbol keeps its last. -/
theorem dictEncFillsTheBitPathTable : Obligations.DictEncFillsTheBitPathTable := by
  intro s htrv
  constructor
  · intro T hT hleaves
    have hpaths := treePaths_of_hasTree hT (hleaves.trans (by decide))
    exact ⟨_, exec_dictEnc_of_paths htrv hpaths, readCt_encoded T.codes s, rfl⟩
  · intro hroot
    have hpaths : treePaths s = some [] := treePaths_of_holds (o := none) hroot (Nat.zero_le _)
    exact exec_dictEnc_of_paths htrv hpaths

/-- Settles O30: no two leaves share a code word, so no entry of DT overwrites another. -/
theorem dictDecFillsTheInverseTable : Obligations.DictDecFillsTheInverseTable := by
  intro s htrv
  constructor
  · intro T hT hleaves
    have hpaths := treePaths_of_hasTree hT (hleaves.trans (by decide))
    have hdepth := toNat_maxDepth_decoded (o := some T) hleaves s
    have hlen := length_decodeTable_codesOf (some T)
    refine ⟨_, exec_dictDec_of_paths htrv hpaths, readDt_decoded (o := some T) s, hlen, fun e he => ?_, ?_, rfl⟩
    · rw [show T.codes = codesOf (some T) from rfl, hdepth]
      exact (longestKey_le_iff _ _).1 le_rfl _ (mem_decodeTable_of_mem_codesOf (o := some T) he)
    · have hne : decodeTable T.codes ≠ [] := List.ne_nil_of_length_pos (hlen ▸ T.leaves_pos)
      obtain ⟨e, he, hlong⟩ := exists_length_eq_longestKey hne
      exact ⟨(e.2, e.1), mem_decodeTable he, hlong.trans hdepth.symm⟩
  · intro hroot
    have hpaths : treePaths s = some [] := treePaths_of_holds (o := none) hroot (Nat.zero_le _)
    exact exec_dictDec_of_paths htrv hpaths

/-- Settles O31: a missing tree raises SequenceError and writes nothing else; otherwise the table and its flag are
written. -/
theorem dictionaryFrame : Obligations.DictionaryFrame := by
  intro s t
  constructor
  · intro hexec
    rw [exec_dictEnc] at hexec
    rcases dictEncUnit_cases s with ⟨htrv, hrun⟩ | ⟨htrv, ps, -, hrun⟩ | ⟨-, -, hrun⟩
    · rw [hrun, outcome_ended] at hexec
      cases hexec
      exact ⟨rfl, fun h => absurd (htrv.symm.trans h) (by decide), fun _ => ⟨rfl, rfl⟩⟩
    · rw [hrun, outcome_ok] at hexec
      cases hexec
      exact ⟨rfl, fun _ => ⟨rfl, rfl, rfl⟩, fun h => absurd (h.symm.trans htrv) (by decide)⟩
    · rw [hrun, outcome_stop] at hexec
      cases hexec
  · intro hexec
    rw [exec_dictDec] at hexec
    rcases dictDecUnit_cases s with ⟨htrv, hrun⟩ | ⟨htrv, ps, -, hrun⟩ | ⟨-, -, hrun⟩
    · rw [hrun, outcome_ended] at hexec
      cases hexec
      exact ⟨rfl, fun h => absurd (htrv.symm.trans h) (by decide), fun _ => ⟨rfl, rfl, rfl⟩⟩
    · rw [hrun, outcome_ok] at hexec
      cases hexec
      exact ⟨rfl, fun _ => ⟨rfl, rfl, rfl⟩, fun h => absurd (h.symm.trans htrv) (by decide)⟩
    · rw [hrun, outcome_stop] at hexec
      cases hexec

/-- Settles O32: the pairs are the code words of a tree. -/
theorem codeWordsAreAPrefixCode : Obligations.CodeWordsAreAPrefixCode := by
  intro s ps hps
  obtain ⟨o, -, rfl⟩ := exists_holds_of_treePaths hps
  exact ⟨pairwise_apart_codesOf o, fun e he => ne_nil_of_mem_codesOf he⟩

/-- With distinct symbols the code word CT gives a symbol is its only one. -/
theorem readCt_encoded_of_nodup {T : CodeTree} (hT : T.syms.Nodup) (s : State) (sym : Symbol) (p : Bits) :
    readCt (encoded T.codes s) sym = some p ↔ (sym, p) ∈ T.codes := by
  rw [readCt_encoded, Option.map_eq_some_iff]
  constructor
  · rintro ⟨d, hd, rfl⟩
    have hsym : d.1 = sym := by simpa using List.find?_some hd
    exact hsym ▸ List.mem_reverse.1 (List.mem_of_find?_eq_some hd)
  · intro hmem
    obtain ⟨d, hdmem, hd, hsym⟩ := exists_find?_reverse (key := fun e : Symbol × Bits => e.1)
      (List.mem_map.2 ⟨_, hmem, rfl⟩)
    have hnodup : (T.codes.map fun e => e.1).Nodup := T.map_fst_codes ▸ hT
    have heq : d = (sym, p) := List.inj_on_of_nodup_map hnodup hdmem hmem hsym
    exact ⟨d, hd, congrArg Prod.snd heq⟩

/-- Settles O33: with distinct symbols both tables hold exactly the pairs of the tree. -/
theorem dictionariesAreInverse : Obligations.DictionariesAreInverse := by
  intro s T htrv hT hleaves hnodup
  have hpaths := treePaths_of_hasTree hT (hleaves.trans (by decide))
  have htrv' : (encoded T.codes s).trv = true := by
    simpa [State.trv, encoded, devMask] using htrv
  have hpaths' : treePaths (encoded T.codes s) = some T.codes := by
    rw [treePaths_congr (s := s) (t := encoded T.codes s) rfl rfl, hpaths]
  refine ⟨_, _, exec_dictEnc_of_paths htrv hpaths, exec_dictDec_of_paths htrv' hpaths', ?_, ?_⟩
  · intro sym p hct
    exact (readDt_decoded (o := some T) _ p sym).2 ((readCt_encoded_of_nodup hnodup s sym p).1 hct)
  · intro p sym hdt
    exact (readCt_encoded_of_nodup hnodup s sym p).2 ((readDt_decoded (o := some T) _ p sym).1 hdt)

end Sys2Proof.Machine
end

section
/-! SUPPORT. However a piece of a command ends, said by one predicate over its three endings, with a rule for each way
pieces are put together and for each stream call (spec/20_memory.md R43 to R47, spec/60_exceptions.md R170). -/

namespace Sys2Proof.Machine

open Sys2Proof

/-! ### The three endings -/

/-- However the piece ends: going on it meets `ok`, cut off by a fault its state meets `ended`, and the model stops only
where `stops` holds. -/
def Flow.Ends {α : Type} (ok : α → State → Prop) (ended : State → Prop) (stops : Prop) : Flow α → Prop
  | .ok a s => ok a s
  | .ended s => ended s
  | .stop _ => stops

section

variable {α β : Type} {P : α → State → Prop} {Q : State → Prop} {S : Prop} {m : Flow α}

theorem Flow.Ends.bind {P' : β → State → Prop} {f : α → State → Flow β} (h : m.Ends P Q S)
    (hf : ∀ a s, P a s → (f a s).Ends P' Q S) : (m.bind f).Ends P' Q S := by
  cases m with
  | ok a s => exact hf a s h
  | ended s => exact h
  | stop e => exact h

theorem Flow.Ends.atEnd {P' : α → State → Prop} {Q' : State → Prop} {g : State → State} (h : m.Ends P Q S)
    (hok : ∀ a s, P a s → P' a (g s)) (hended : ∀ s, Q s → Q' (g s)) : (m.atEnd g).Ends P' Q' S := by
  cases m with
  | ok a s => exact hok a s h
  | ended s => exact hended s h
  | stop e => exact h

theorem Flow.Ends.imp {P' : α → State → Prop} {Q' : State → Prop} {S' : Prop} (h : m.Ends P Q S)
    (hok : ∀ a s, P a s → P' a s) (hended : ∀ s, Q s → Q' s) (hstops : S → S') : m.Ends P' Q' S' := by
  cases m with
  | ok a s => exact hok a s h
  | ended s => exact hended s h
  | stop e => exact hstops h

theorem Flow.Ends.and {P' : α → State → Prop} {Q' : State → Prop} {S' : Prop} (h : m.Ends P Q S)
    (h' : m.Ends P' Q' S') :
    m.Ends (fun a s => P a s ∧ P' a s) (fun s => Q s ∧ Q' s) (S ∧ S') := by
  cases m with
  | ok a s => exact ⟨h, h'⟩
  | ended s => exact ⟨h, h'⟩
  | stop e => exact ⟨h, h'⟩

/-- What a piece meets that ended in a known way. -/
theorem Flow.Ends.of_ok {a : α} {t : State} (h : m.Ends P Q S) (hm : m = .ok a t) : P a t := by
  subst hm; exact h

theorem Flow.Ends.of_ended {t : State} (h : m.Ends P Q S) (hm : m = .ended t) : Q t := by
  subst hm; exact h

end

/-- The next state of a whole command is one it completed in, or one a fault left. -/
theorem Flow.Ends.of_outcome {m : Flow Unit} {P : Unit → State → Prop} {Q : State → Prop} {S : Prop} {t : State}
    (h : m.Ends P Q S) (ht : m.outcome = .next t) : P () t ∨ Q t := by
  rcases outcome_eq_next.1 ht with hm | hm
  · exact .inl (h.of_ok hm)
  · exact .inr (h.of_ended hm)

/-- A whole command that never stops answers a next state. -/
theorem Flow.Ends.exists_next {m : Flow Unit} {P : Unit → State → Prop} {Q : State → Prop} (h : m.Ends P Q False) :
    ∃ t, m.outcome = .next t ∧ (P () t ∨ Q t) := by
  cases m with
  | ok a s => exact ⟨s, rfl, .inl h⟩
  | ended s => exact ⟨s, rfl, .inr h⟩
  | stop e => exact h.elim

/-! ### Faults -/

/-- The state after fault entry with one of these faults, in a state that met `R` until then (R170: every earlier write
stays). -/
def Raised (faults : List (ErrKind × Opcode)) (R : State → Prop) (t : State) : Prop :=
  ∃ e ∈ faults, ∃ u, R u ∧ t = raise e.1 e.2 u

theorem Raised.imp {faults faults' : List (ErrKind × Opcode)} {R R' : State → Prop} {t : State} (h : Raised faults R t)
    (hsub : faults ⊆ faults') (hR : ∀ u, R u → R' u) : Raised faults' R' t := by
  obtain ⟨e, he, u, hu, rfl⟩ := h
  exact ⟨e, hsub he, u, hR u hu, rfl⟩

theorem Raised.of_raise {faults : List (ErrKind × Opcode)} {R : State → Prop} {k : ErrKind} {g : Opcode} {u : State}
    (hmem : (k, g) ∈ faults) (hu : R u) : Raised faults R (raise k g u) := ⟨(k, g), hmem, u, hu, rfl⟩

/-- The fault of a stream call, which quiet streams do not raise (20_memory.md R47). -/
def ioFault (s : State) (g : Opcode) : List (ErrKind × Opcode) := if s.quiet then [] else [(.ioError, g)]

theorem mem_ioFault {s : State} {g : Opcode} {e : ErrKind × Opcode} :
    e ∈ ioFault s g ↔ ¬ s.quiet ∧ e = (.ioError, g) := by
  unfold ioFault
  split
  · next h => exact ⟨fun he => absurd he List.not_mem_nil, fun he => absurd h he.1⟩
  · next h => exact List.mem_singleton.trans ⟨fun he => ⟨h, he⟩, fun he => he.2⟩

theorem ioFault_subset (s : State) (g : Opcode) : ioFault s g ⊆ [(.ioError, g)] :=
  fun _ he => List.mem_singleton.2 (mem_ioFault.1 he).2

theorem ioFault_of_quiet {s : State} (h : s.quiet) (g : Opcode) : ioFault s g = [] := if_pos h

/-- Streams whose answers still to come are the last of those of quiet streams are quiet. -/
theorem quiet_of_suffix {s u : State} (h : s.quiet) (hu : u.ioAnswers <:+ s.ioAnswers) : u.quiet :=
  fun a ha => h a (hu.subset ha)

theorem mem_ioFault_of_suffix {s u : State} (hu : u.ioAnswers <:+ s.ioAnswers) (hq : ¬ u.quiet) (g : Opcode) :
    (ErrKind.ioError, g) ∈ ioFault s g := mem_ioFault.2 ⟨fun h => hq (quiet_of_suffix h hu), rfl⟩

theorem suffix_drop {a b : List Bool} (h : a <:+ b) (k : Nat) : a.drop k <:+ b := (List.drop_suffix k a).trans h

/-! ### Pieces that stand by themselves -/

section

variable {Q : State → Prop} {S : Prop} {s : State} {g : Opcode}

theorem require_ends {P : Unit → State → Prop} {c : Bool} (hok : c = true → P () s)
    (hmissing : c = false → Q (raise .sequenceError g s)) : (require c g s).Ends P Q S := by
  cases c with
  | true => exact hok rfl
  | false => exact hmissing rfl

/-- One stream call (R47): it takes one answer, and goes on unless that is IOFAULT. -/
theorem ioCall_ends {P : Unit → State → Prop} (hok : P () (bytesRead 0 1 s))
    (hio : ¬ s.quiet → Q (raise .ioError g (bytesRead 0 1 s))) : (ioCall g s).Ends P Q S := by
  rcases hans : s.ioAnswers with _ | ⟨a, rest⟩
  · have hq : s.quiet := by simp [State.quiet, hans]
    rw [ioCall_quiet hq]
    exact hok
  · cases a with
    | false =>
      have hrun : ioCall g s = .ok () (bytesRead 0 1 s) := by
        simp [ioCall, askIo, hans, bytesRead, seekBytes, setIo]
      rw [hrun]
      exact hok
    | true =>
      have hrun : ioCall g s = .ended (raise .ioError g (bytesRead 0 1 s)) := by
        rw [ioCall_fault hans, bytesRead, hans]
        rfl
      rw [hrun]
      exact hio fun hq => Bool.noConfusion (hq true (hans ▸ List.mem_cons_self))

/-- `RdByte()` (R43). -/
theorem rdByte_ends {P : Option Byte → State → Prop}
    (hsome : ∀ b, s.inBytes.pos < s.inBytes.bytes.length → P (some b) (bytesRead 1 1 s))
    (hnone : s.inBytes.bytes.length ≤ s.inBytes.pos → P none (bytesRead 0 1 s))
    (hio : ¬ s.quiet → Q (raise .ioError g (bytesRead 0 1 s))) : (rdByte g s).Ends P Q S := by
  refine (ioCall_ends (P := fun _ t => t = bytesRead 0 1 s) rfl hio).bind fun _ t ht => ?_
  subst ht
  cases hb : (bytesRead 0 1 s).inBytes.bytes[(bytesRead 0 1 s).inBytes.pos]? with
  | none => exact hnone (List.getElem?_eq_none_iff.1 hb)
  | some b => exact hsome b (List.getElem?_eq_some_iff.1 hb).1

/-- `RdBits(n)` (R45). -/
theorem rdBits_ends {n : Nat} {P : BitVec n → State → Prop}
    (hok : s.inBits.pos + n ≤ s.inBits.bits.length → ∀ v, P v (bitsRead n 1 s))
    (hshort : s.inBits.bits.length < s.inBits.pos + n → Q (raise .corruptStream g (bitsRead 0 1 s)))
    (hio : ¬ s.quiet → Q (raise .ioError g (bitsRead 0 1 s))) : (rdBits g n s).Ends P Q S := by
  refine (ioCall_ends (P := fun _ t => t = bitsRead 0 1 s) rfl hio).bind fun _ t ht => ?_
  subst ht
  by_cases hlen : s.inBits.bits.length < s.inBits.pos + n
  · rw [if_pos (show (bitsRead 0 1 s).inBits.bits.length < (bitsRead 0 1 s).inBits.pos + n from hlen)]
    exact hshort hlen
  · rw [if_neg (show ¬ (bitsRead 0 1 s).inBits.bits.length < (bitsRead 0 1 s).inBits.pos + n from hlen)]
    exact hok (Nat.le_of_not_lt hlen) _

/-- `WrBits(n, v)` (R44). -/
theorem wrBits_ends {P : Unit → State → Prop} {n : Nat} {v : BitVec n}
    (hok : P () (appendBits (fieldBits v) (bytesRead 0 1 s)))
    (hio : ¬ s.quiet → Q (raise .ioError g (bytesRead 0 1 s))) : (wrBits g v s).Ends P Q S := by
  refine (ioCall_ends (P := fun _ t => t = bytesRead 0 1 s) rfl hio).bind fun _ t ht => ?_
  subst ht
  exact hok

/-- `WrByte(b)` (R46). -/
theorem wrByte_ends {P : Unit → State → Prop} {b : Byte} (hok : P () (appendBytes [b] (bitsRead 0 1 s)))
    (hio : ¬ s.quiet → Q (raise .ioError g (bitsRead 0 1 s))) : (wrByte g b s).Ends P Q S := by
  refine (ioCall_ends (P := fun _ t => t = bitsRead 0 1 s) rfl hio).bind fun _ t ht => ?_
  subst ht
  exact hok

/-- `Close()` (R44). -/
theorem closeOut_ends {P : Unit → State → Prop} (hok : P () (padOut (bytesRead 0 1 s)))
    (hio : ¬ s.quiet → Q (raise .ioError g (bytesRead 0 1 s))) : (closeOut g s).Ends P Q S := by
  refine (ioCall_ends (P := fun _ t => t = bytesRead 0 1 s) rfl hio).bind fun _ t ht => ?_
  subst ht
  exact hok

/-- Creating a node (41_tree_builder.md R95), on its condition. -/
theorem allocNode_ends {P : NodeIdx → State → Prop} {n : Node}
    (hok : s.nCount.toNat < Config.maxNodes → P (s.nCount.setWidth 17) (stored n s))
    (hfull : Config.maxNodes ≤ s.nCount.toNat → S) : (allocNode n s).Ends P Q S := by
  by_cases hroom : s.nCount.toNat < Config.maxNodes
  · rw [allocNode_of_room n hroom]
    exact hok hroom
  · rw [allocNode, if_neg hroom]
    exact hfull (Nat.le_of_not_lt hroom)

end

/-! ### Pieces that only append -/

/-- `t` is `s` with bits appended to OUT_BITS and answers of the collaborators taken. -/
def Wrote (s t : State) : Prop :=
  t = { s with outBits := t.outBits, ioAnswers := t.ioAnswers } ∧ s.outBits <+: t.outBits ∧ t.ioAnswers <:+ s.ioAnswers

theorem Wrote.refl (s : State) : Wrote s s := ⟨rfl, List.prefix_rfl, List.suffix_rfl⟩

theorem Wrote.trans {s t u : State} (h : Wrote s t) (h' : Wrote t u) : Wrote s u := by
  obtain ⟨hf, hout, hans⟩ := h
  obtain ⟨hf', hout', hans'⟩ := h'
  refine ⟨?_, hout.trans hout', hans'.trans hans⟩
  rw [hf', hf]

theorem wrote_appendBits (bs : Bits) (k : Nat) (s : State) : Wrote s (appendBits bs (bytesRead 0 k s)) :=
  ⟨rfl, List.prefix_append _ _, List.drop_suffix _ _⟩

theorem wrote_bytesRead (k : Nat) (s : State) : Wrote s (bytesRead 0 k s) :=
  ⟨rfl, List.prefix_rfl, List.drop_suffix _ _⟩

section

variable {s u : State} {g : Opcode} {S : Prop}

/-- A field written after earlier writes of the same command. -/
theorem wrBits_ends_wrote {n : Nat} (v : BitVec n) (h : Wrote s u) :
    (wrBits g v u).Ends (fun _ => Wrote s) (Raised (ioFault s g) (Wrote s)) S :=
  wrBits_ends (h.trans (wrote_appendBits _ 1 u)) fun hq =>
    .of_raise (mem_ioFault_of_suffix h.2.2 hq g) (h.trans (wrote_bytesRead 1 u))

/-- A path written after earlier writes of the same command. -/
theorem wrPath_ends_wrote (p : Bits) (h : Wrote s u) :
    (wrPath g p u).Ends (fun _ => Wrote s) (Raised (ioFault s g) (Wrote s)) S := by
  induction p generalizing u with
  | nil => exact h
  | cons b p ih => exact (wrBits_ends_wrote _ h).bind fun _ t ht => ih ht

end

end Sys2Proof.Machine
end

section
/-! SUPPORT. Dispatch, faults, CLEAR and reset (spec/46_control.md R150 to R153, spec/60_exceptions.md R170,
spec/70_reset_and_hazards.md R185) and the two tokens (spec/43_tree_serializer.md R115, R116); with these the
statements of these units. -/

namespace Sys2Proof.Machine

open Sys2Proof

/-! ### Dispatch (R150) -/

section Dispatch

variable {s : State} {w : CmdWord} {rest : List HostEvent} {i : Instr}

/-- The decoded instruction runs in READY, and CLEAR's word also in ERROR. -/
theorem dispatchWord_of_decode (hready : s.isError = false ∨ w = 0#64) (hdecode : decode (.command w) = .ok i) :
    dispatchWord w s = .run i s := by
  have hlegal : (s.isError && decide (w ≠ 0#64)) = false := by
    rcases hready with h | h <;> simp [h]
  rw [dispatchWord, hlegal]
  simp [hdecode]

/-- An idle step takes the host's next event off the list. -/
theorem fetchNext_of_idle {e : HostEvent} (hphase : s.phase = .idle) (hhost : s.host = e :: rest) :
    fetchNext s = hostEvent e { s with host := rest } := by
  simp [fetchNext, hphase, hhost]

theorem step_of_fetchNext_run {t : State} (h : fetchNext s = .run i t) : step s = exec i t := by rw [step, h]

theorem step_of_fetchNext_settled {t : State} (h : fetchNext s = .settled t) : step s = .next t := by rw [step, h]

theorem step_of_command (hphase : s.phase = .idle) (hhost : s.host = .command w :: rest)
    (hready : s.isError = false ∨ w = 0#64) (hdecode : decode (.command w) = .ok i) :
    step s = exec i { s with host := rest } :=
  step_of_fetchNext_run ((fetchNext_of_idle hphase hhost).trans (dispatchWord_of_decode hready hdecode))

end Dispatch

/-- Settles O6: neither the sticky-error test nor the illegal-word test holds the word back. -/
theorem stepRunsTheDecodedCommand : Obligations.StepRunsTheDecodedCommand :=
  fun _ _ _ _ hphase hhost hready hdecode => step_of_command hphase hhost hready hdecode

/-! ### The next token (R121) -/

/-- The stream calls that read a token: the flag bit, and a leaf's symbol. -/
def tokenCalls : Token → Nat
  | .leaf _ => 2
  | .merge => 1

/-- The token at the read position is read, one call for each of its fields, where its counter allows it (R122 c). -/
theorem readToken_of_bitsAhead (t : Token) {s : State} {rest : Bits} (h : s.quiet)
    (hb : s.bitsAhead = encodeToken t ++ rest) (hleaf : s.remL = 0#17 → t = .merge) :
    readToken s = .ok t (bitsRead (encodeToken t).length (tokenCalls t) s) := by
  cases t with
  | leaf sym =>
    have hflag : rdBits 0xA#4 1 s = .ok 1#1 (bitsRead 1 1 s) := rdBits_bitsRead h (by decide) hb
    have hsym : rdBits 0xA#4 16 (bitsRead 1 1 s) = .ok sym (bitsRead 17 2 s) := by
      have hrest : (bitsRead 1 1 s).bitsAhead = fieldBits sym ++ rest := bitsAhead_bitsRead (bs := [true]) hb 1
      rw [rdBits_bitsRead (quiet_bitsRead h 1 1) (by decide) hrest, bitsRead_bitsRead]
    have hremL : (bitsRead 1 1 s).remL ≠ 0#17 := fun e => Token.noConfusion (hleaf e)
    simp only [readToken, hflag, bind_ok, if_true, if_neg hremL, hsym]
    simp [encodeToken, tokenOf, tokenCalls]
  | merge =>
    have hflag : rdBits 0xA#4 1 s = .ok 0#1 (bitsRead 1 1 s) := rdBits_bitsRead h (by decide) hb
    simp only [readToken, hflag, bind_ok]
    rfl

theorem fetchToken_of_readToken {s t : State} {k : Token} (hcount : s.remL ≠ 0#17 ∨ s.remI ≠ 0#17)
    (hread : readToken s = .ok k t) : fetchToken s = .run k.instr t := by
  rw [fetchToken, if_neg (by tauto), hread]

theorem fetchNext_of_treeLoop {s : State} (h : s.phase = .treeLoop) : fetchNext s = fetchToken s := by
  simp [fetchNext, h]

/-- Settles O7: with a counter positive the loop goes on, and the token's own bits are what it consumes. -/
theorem stepRunsTheNextToken : Obligations.StepRunsTheNextToken := by
  intro s t rest hphase hcount hleaf hquiet hb
  have hfetch := fetchToken_of_readToken hcount (readToken_of_bitsAhead t hquiet hb hleaf)
  rw [step_of_fetchNext_run ((fetchNext_of_treeLoop hphase).trans hfetch)]
  cases t <;> rfl

/-! ### Prerequisites and fault entry (R152, R170) -/

theorem require_of_false {c : Bool} (h : c = false) (g : Opcode) (s : State) :
    require c g s = .ended (raise .sequenceError g s) := by
  rw [require, h]
  exact if_neg Bool.false_ne_true

/-- A command that begins with `require` of a condition that does not hold is over at once. -/
theorem require_bind_of_false {c : Bool} (h : c = false) (g : Opcode) (s : State) (next : Unit → State → Flow Unit) :
    ((require c g s).bind next).outcome = .next (raise .sequenceError g s) := by
  rw [require_of_false h, bind_ended, outcome_ended]

/-- Settles O10: each of the commands begins with `require` of its flags. -/
theorem missingPrerequisiteRaisesSequenceError : Obligations.MissingPrerequisiteRaisesSequenceError := by
  intro s
  exact ⟨fun h => require_bind_of_false h _ _ _, fun h => require_bind_of_false h _ _ _,
    fun h => require_bind_of_false h _ _ _, fun h => require_bind_of_false (Bool.and_eq_false_iff.2 h) _ _ _,
    fun h => require_bind_of_false (Bool.and_eq_false_iff.2 h) _ _ _, fun h => require_bind_of_false h _ _ _,
    fun h => require_bind_of_false (Bool.and_eq_false_iff.2 h) _ _ _⟩

/-- The fields of the STATUS word that fault entry writes (10_state.md R13). -/
theorem statusWord_fields (k : ErrKind) (stage : Opcode) :
    (statusWord k stage).getLsbD 0 = true ∧ (statusWord k stage).extractLsb' 1 3 = errCode k ∧
      (statusWord k stage).extractLsb' 4 4 = stage := by
  cases k <;> revert stage <;> decide

@[simp] theorem raise_isError (k : ErrKind) (g : Opcode) (s : State) : (raise k g s).isError = true :=
  (statusWord_fields k g).1

/-- Settles O11: the fields are those of the STATUS word, and nothing follows in the command. -/
theorem faultEntryWritesStatusAndEndsTheCommand : Obligations.FaultEntryWritesStatusAndEndsTheCommand := by
  intro k stage s
  obtain ⟨herror, hcode, hstage⟩ := statusWord_fields k stage
  refine ⟨herror, ?_, hstage, rfl, fun β next => bind_ended _ _⟩
  cases k <;> exact hcode

/-! ### CLEAR and reset (R153, R185) -/

theorem exec_clear (s : State) : exec .clear s = .next (clearCore s) := rfl

/-- Settles O13: CLEAR's effect is `clearCore`, whose tables are empty, and its word is decoded in ERROR too. -/
theorem clearReturnsToResetState : Obligations.ClearReturnsToResetState := by
  refine ⟨fun _ => rfl, fun s rest hphase hhost => ?_, fun s t ht => ?_, rfl⟩
  · exact step_of_command hphase hhost (.inr rfl) (by decide)
  · rw [exec_clear] at ht
    cases ht
    exact ⟨fun _ => rfl, fun _ => rfl, fun _ => rfl⟩

/-- Settles O14: reset is CLEAR's effect, with the working state released. -/
theorem resetGivesTheResetState : Obligations.ResetGivesTheResetState := by
  intro s rest hphase hhost
  exact ⟨_, step_of_fetchNext_settled (fetchNext_of_idle hphase hhost), rfl⟩

/-- Settles O58, by evaluation. -/
theorem resetMeetsTheInvariant : Obligations.ResetMeetsTheInvariant := by
  unfold Obligations.ResetMeetsTheInvariant
  decide

/-! ### The two tokens (R115, R116) -/

theorem exec_tLeaf (sym : Symbol) (s : State) : exec (.tLeaf sym) s = tokenOutcome (tokenLeaf sym s) := rfl

theorem exec_tMerge (s : State) : exec .tMerge s = tokenOutcome (tokenMerge s) := rfl

theorem readNode_stored_other (n : Node) (s : State) {j : NodeIdx} (h : j ≠ s.nCount.setWidth 17) :
    readNode (stored n s) j = readNode s j := by
  simp only [readNode, stored, find_put_other idxRank _ _ _ _ (mt idxRank_inj.1 h)]

theorem tokenLeaf_of_remL_zero (sym : Symbol) {s : State} (h : s.remL = 0#17) :
    tokenLeaf sym s = .ended (raise .corruptStream 0xA#4 s) := by
  rw [tokenLeaf, if_pos h]

theorem tokenMerge_of_remI_zero {s : State} (h : s.remI = 0#17) :
    tokenMerge s = .ended (raise .corruptStream 0xA#4 s) := by
  rw [tokenMerge, if_pos h]

theorem tokenMerge_of_short_stack {s : State} (h : s.stack.length < 2) :
    tokenMerge s = .ended (raise .corruptStream 0xA#4 s) := by
  rw [tokenMerge]
  split
  · rfl
  · split
    · next hstack =>
      rw [hstack] at h
      simp at h
    · rfl

/-- Settles O35: with its counter positive and room in the store the leaf is stored and pushed. -/
theorem leafTokenPushesALeaf : Obligations.LeafTokenPushesALeaf := by
  intro s sym
  constructor
  · intro hL hcount
    have hroom : s.nCount.toNat < Config.maxNodes := Nat.lt_succ_of_le hcount
    refine ⟨leafPushed sym s, ?_, readNode_stored_same _ s,
      fun j hj => readNode_stored_other (.leaf sym 0#48) s hj, rfl⟩
    rw [exec_tLeaf, tokenLeaf_of_room sym hL hroom, tokenOutcome]
  · intro hL
    refine ⟨releaseStack (raise .corruptStream 0xA#4 s), ?_, rfl, rfl⟩
    rw [exec_tLeaf, tokenLeaf_of_remL_zero sym hL, tokenOutcome]

/-- Settles O36: with its counter positive, two nodes on the stack and room in the store both are joined. -/
theorem mergeTokenJoinsTheTwoTopNodes : Obligations.MergeTokenJoinsTheTwoTopNodes := by
  intro s
  constructor
  · intro a b below hI hstack hcount
    have hroom : s.nCount.toNat < Config.maxNodes := Nat.lt_succ_of_le hcount
    refine ⟨topMerged a b below s, ?_, readNode_stored_same _ s,
      fun j hj => readNode_stored_other (.internal 0#48 a b) s hj, rfl⟩
    rw [exec_tMerge, tokenMerge_of_room hI hstack hroom, tokenOutcome]
  · intro hcause
    have hrun : tokenMerge s = .ended (raise .corruptStream 0xA#4 s) := by
      rcases hcause with h | h
      · exact tokenMerge_of_remI_zero h
      · exact tokenMerge_of_short_stack h
    refine ⟨releaseStack (raise .corruptStream 0xA#4 s), ?_, rfl, rfl⟩
    rw [exec_tMerge, hrun, tokenOutcome]

end Sys2Proof.Machine
end

section
/-! SUPPORT. FrequencyAnalyzer (spec/40_frequency_analyzer.md): the counts of FT add up to the bytes read (R19, R81),
and what ANALYZE can do, said once; with these the statements of this unit. -/

namespace Sys2Proof.Machine

open Sys2Proof

/-! ### The sum of FT (10_state.md R19) -/

/-- The sum of a table's counts. -/
def tableSum {κ : Type} (t : Table κ Word32) : Nat := (t.map fun e => e.2.toNat).sum

/-- The sum of FT. -/
def ftSum (s : State) : Nat := tableSum s.ft

/-- In a canonical table a write trades the old value for the new one. -/
theorem tableSum_put {κ : Type} {rank : κ → Nat} {t : Table κ Word32} (h : Table.rising rank t = true) (k : κ)
    (v : Word32) :
    tableSum (Table.put rank t k v) + ((Table.find rank t k).getD 0#32).toNat = tableSum t + v.toNat := by
  induction t with
  | nil => simp [tableSum, Table.put, Table.find]
  | cons e t ih =>
    obtain ⟨j, w⟩ := e
    obtain ⟨habove, hrising⟩ := (rising_cons rank j w t).1 h
    rcases lt_trichotomy (rank k) (rank j) with hlt | heq | hgt
    · have hnone : Table.find rank ((j, w) :: t) k = none := by
        refine find_above rank _ k fun e he => ?_
        rcases List.mem_cons.1 he with rfl | he
        · exact hlt
        · exact hlt.trans (habove e he)
      rw [hnone, Table.put, if_pos hlt]
      simp only [tableSum, List.map_cons, List.sum_cons, Option.getD_none, BitVec.toNat_zero]
      omega
    · simp only [Table.put, Table.find, if_neg heq.not_lt, if_pos heq, if_pos heq.symm, tableSum, List.map_cons,
        List.sum_cons, Option.getD_some]
      omega
    · have hih := ih hrising
      simp only [tableSum] at hih
      simp only [Table.put, Table.find, if_neg hgt.asymm, if_neg hgt.ne', if_neg hgt.ne, tableSum, List.map_cons,
        List.sum_cons]
      omega

/-- No count is greater than the sum. -/
theorem toNat_readFt_le_ftSum (s : State) (sym : Symbol) : (readFt s sym).toNat ≤ ftSum s := by
  rw [readFt]
  cases hfind : Table.find symRank s.ft sym with
  | none => exact Nat.zero_le _
  | some v =>
    obtain ⟨k, -, hmem⟩ := mem_of_find hfind
    exact List.single_le_sum (fun _ _ => Nat.zero_le _) _ (List.mem_map.2 ⟨_, hmem, rfl⟩)

/-- Counting one symbol raises the sum by one. -/
theorem ftSum_bumpFt {s : State} (h : ftWf s) (x : Symbol) (hroom : ftSum s < 2 ^ 32 - 1) :
    ftSum (bumpFt x s) = ftSum s + 1 := by
  have hle := toNat_readFt_le_ftSum s x
  have hnext : (readFt s x + 1#32).toNat = (readFt s x).toNat + 1 := by
    rw [BitVec.toNat_add, BitVec.toNat_ofNat]
    omega
  have hne : readFt s x + 1#32 ≠ 0#32 := fun e => by rw [e] at hnext; simp at hnext
  have hsum := tableSum_put h.1 x (readFt s x + 1#32)
  have hput : (bumpFt x s).ft = Table.put symRank s.ft x (readFt s x + 1#32) := by
    rw [bumpFt, writeFt_ft, if_neg hne]
  rw [show (Table.find symRank s.ft x).getD 0#32 = readFt s x from rfl, hnext] at hsum
  rw [ftSum, hput, ftSum]
  omega

/-! ### What ANALYZE can do (R81) -/

/-- `t` differs from `s` in what ANALYZE writes and reads, with FT in canonical form. -/
structure AnalyzeKept (s t : State) : Prop where
  frame : t = { s with
    flags := t.flags, ft := t.ft, total := t.total, ioAnswers := t.ioAnswers
    inBytes := { (rewind s).inBytes with pos := t.inBytes.pos } }
  answers : t.ioAnswers <:+ s.ioAnswers
  canonical : ftWf t

/-- ANALYZE of `s` is under way in `t`: `done` symbols are in FT, `pending` more bytes are in TOTAL, and `read` more are
read. -/
structure Counting (s : State) (done read pending : Nat) (t : State) : Prop extends AnalyzeKept s t where
  flags : t.flags = 0#5
  inRange : t.inBytes.pos ≤ s.nextPass.length
  total : t.total.toNat + read = t.inBytes.pos
  sum : ftSum t = done
  paired : 2 * done + pending = t.total.toNat

/-- ANALYZE of `s` is done in `t`, with FLAGS `f`: TOTAL is the length of the pass and FT counts it (R19). -/
structure Counted (s : State) (f : BitVec 5) (t : State) : Prop extends AnalyzeKept s t where
  flags : t.flags = f
  total : t.total.toNat = s.nextPass.length
  sum : 2 * ftSum t = t.total.toNat + t.total.toNat % 2

/-- A fault ended ANALYZE of `s`: of a stream call, or of a byte too many. -/
def AnalyzeFaulted (s t : State) : Prop :=
  Raised (ioFault s 0x2#4) (fun u => AnalyzeKept s u ∧ u.flags = 0#5) t ∨
    Raised [(.lengthOverflow, 0x2#4)] (fun u => (AnalyzeKept s u ∧ u.flags = 0#5) ∧ u.total = 0xFFFFFFFF#32) t

section

variable {s t : State} {done read pending : Nat}

theorem counting_analyzeStart (s : State) : Counting s 0 0 0 (analyzeStart s) := by
  have hin : (analyzeStart s).inBytes = (rewind s).inBytes := rewind_inBytes_congr rfl
  have hframe : analyzeStart s = { s with flags := 0#5, ft := [], total := 0#32, inBytes := (rewind s).inBytes } :=
    hin ▸ rewind_frame _
  have hpos : (rewind s).inBytes.pos = 0 := rewind_pos s
  constructor
  case toAnalyzeKept =>
    rw [hframe]
    exact ⟨rfl, List.suffix_rfl, rfl, by simp⟩
  case flags => rw [hframe]
  case inRange => rw [hin, hpos]; exact Nat.zero_le _
  case total => rw [hframe]; exact hpos.symm
  case sum => rw [hframe]; rfl
  case paired => rw [hframe]; rfl

/-- The bytes of IN_BYTES are those of the pass. -/
theorem AnalyzeKept.bytes (h : AnalyzeKept s t) : t.inBytes.bytes = s.nextPass := by
  rw [h.frame]
  rfl

theorem AnalyzeKept.bytesRead (h : AnalyzeKept s t) (m k : Nat) : AnalyzeKept s (bytesRead m k t) := by
  refine ⟨?_, suffix_drop h.answers k, h.canonical⟩
  rw [h.frame]
  rfl

theorem Counting.bytesRead_one (h : Counting s done read pending t) (hpos : t.inBytes.pos < t.inBytes.bytes.length) :
    Counting s done (read + 1) pending (bytesRead 1 1 t) :=
  ⟨h.toAnalyzeKept.bytesRead 1 1, h.flags, h.bytes ▸ hpos, congrArg (· + 1) h.total, h.sum, h.paired⟩

/-- Counting a byte: it goes into TOTAL, or TOTAL is at its greatest value. -/
theorem Counting.countByte_ends (h : Counting s done (read + 1) pending t) :
    (countByte t).Ends (fun _ => Counting s done read (pending + 1)) (AnalyzeFaulted s) False := by
  have htotal := h.total
  have hpaired := h.paired
  by_cases hmax : t.total = 0xFFFFFFFF#32
  · rw [countByte, if_pos hmax]
    exact .inr (.of_raise List.mem_cons_self ⟨⟨h.toAnalyzeKept, h.flags⟩, hmax⟩)
  · have hnext : (t.total + 1#32).toNat = t.total.toNat + 1 := by bv_omega
    rw [countByte, if_neg hmax]
    constructor
    case toAnalyzeKept =>
      refine ⟨?_, h.answers, h.canonical⟩
      rw [h.frame]
    case flags => exact h.flags
    case inRange => exact h.inRange
    case total =>
      show (t.total + 1#32).toNat + read = t.inBytes.pos
      omega
    case sum => exact h.sum
    case paired =>
      show 2 * done + (pending + 1) = (t.total + 1#32).toNat
      omega

theorem AnalyzeKept.bumpFt (h : AnalyzeKept s t) (x : Symbol) : AnalyzeKept s (bumpFt x t) := by
  refine ⟨?_, h.answers, ftWf_bumpFt x h.canonical⟩
  rw [h.frame]
  rfl

/-- A symbol goes into FT. -/
theorem Counting.ftSum_bumpFt (h : Counting s done read (pending + 1) t) (x : Symbol) :
    ftSum (Machine.bumpFt x t) = done + 1 := by
  have hsum := h.sum
  have hpaired := h.paired
  have hlt := t.total.isLt
  rw [Machine.ftSum_bumpFt h.canonical x (by omega), hsum]

theorem Counting.bumpFt (h : Counting s done read (pending + 2) t) (x : Symbol) :
    Counting s (done + 1) read pending (Machine.bumpFt x t) := by
  have hpaired := h.paired
  refine ⟨h.toAnalyzeKept.bumpFt x, h.flags, h.inRange, h.total, h.ftSum_bumpFt x, ?_⟩
  show 2 * (done + 1) + pending = t.total.toNat
  omega

/-- The end of an input of an even number of bytes. -/
theorem Counting.counted_of_even (h : Counting s done 0 0 t) (hend : t.inBytes.bytes.length ≤ t.inBytes.pos) :
    Counted s 0#5 (Machine.bytesRead 0 1 t) := by
  obtain ⟨hkept, hflags, hrange, htotal, hsum, hpaired⟩ := h
  rw [hkept.bytes] at hend
  refine ⟨hkept.bytesRead 0 1, hflags, ?_, ?_⟩
  · show t.total.toNat = s.nextPass.length
    omega
  · show 2 * ftSum t = t.total.toNat + t.total.toNat % 2
    omega

/-- The end of an input with a trailing byte (R80). -/
theorem Counting.counted_of_odd (h : Counting s done 0 1 t) (hend : t.inBytes.bytes.length ≤ t.inBytes.pos)
    (x : Symbol) : Counted s 0#5 (Machine.bumpFt x (Machine.bytesRead 0 1 t)) := by
  have hbump := h.ftSum_bumpFt x
  obtain ⟨hkept, hflags, hrange, htotal, -, hpaired⟩ := h
  rw [hkept.bytes] at hend
  refine ⟨(hkept.bytesRead 0 1).bumpFt x, hflags, ?_, ?_⟩
  · show t.total.toNat = s.nextPass.length
    omega
  · show 2 * ftSum (Machine.bumpFt x t) = t.total.toNat + t.total.toNat % 2
    omega

/-- One `RdByte()` of ANALYZE. -/
theorem Counting.rdByte_ends (h : Counting s done read pending t) :
    (rdByte 0x2#4 t).Ends
      (fun b u => match b with
        | some _ => Counting s done (read + 1) pending u
        | none => u = Machine.bytesRead 0 1 t ∧ t.inBytes.bytes.length ≤ t.inBytes.pos)
      (AnalyzeFaulted s) False :=
  Machine.rdByte_ends (fun _ hpos => h.bytesRead_one hpos) (fun hend => ⟨rfl, hend⟩) fun hq =>
    .inl (.of_raise (mem_ioFault_of_suffix h.answers hq _) ⟨h.toAnalyzeKept.bytesRead 0 1, h.flags⟩)

/-- The loop of ANALYZE, with passes left for the bytes ahead: it counts them all, or a fault ends it. -/
theorem Counting.analyzeLoop_ends {n : Nat} (h : Counting s done 0 0 t) (hn : s.nextPass.length < 2 * done + n) :
    (analyzeLoop n t).Ends (fun _ => Counted s 0#5) (AnalyzeFaulted s) False := by
  induction n generalizing done t with
  | zero =>
    have hrange := h.inRange
    have htotal := h.total
    have hpaired := h.paired
    omega
  | succ n ih =>
    rw [analyzeLoop]
    refine h.rdByte_ends.bind fun b₁ t₁ h₁ => ?_
    cases b₁ with
    | none => exact h₁.1 ▸ h.counted_of_even h₁.2
    | some b₁ =>
      refine (Counting.countByte_ends h₁).bind fun _ t₂ h₂ => ?_
      refine h₂.rdByte_ends.bind fun b₂ t₃ h₃ => ?_
      cases b₂ with
      | none => exact h₃.1 ▸ h₂.counted_of_odd h₃.2 _
      | some b₂ =>
        refine (Counting.countByte_ends h₃).bind fun _ t₄ h₄ => ?_
        exact ih (h₄.bumpFt _) (by omega)

end

/-- ANALYZE, whatever the collaborators answer (R81): the whole pass is counted and FAV alone is set, or a fault ends it
with every flag 0. -/
theorem analyzeUnit_ends (s : State) :
    (analyzeUnit s).Ends (fun _ => Counted s favMask) (AnalyzeFaulted s) False := by
  have hstart := counting_analyzeStart s
  have hloop := hstart.analyzeLoop_ends (n := (analyzeStart s).inBytes.bytes.length + 1) (by rw [hstart.bytes]; omega)
  refine hloop.bind fun _ t ht => ?_
  obtain ⟨⟨hframe, hanswers, hcanonical⟩, hflags, htotal, hsum⟩ := ht
  refine ⟨⟨?_, hanswers, hcanonical⟩, ?_, htotal, hsum⟩
  · rw [hframe]
    rfl
  · rw [setFlags_flags, hflags]
    decide

/-! ### The statements of this unit -/

theorem exec_ftWrite (sym : Symbol) (count : Word32) (s : State) :
    exec (.ftWrite sym count) s = .next (writeFt sym count { s with flags := 0#5 }) := rfl

theorem exec_analyze (s : State) : exec .analyze s = (analyzeUnit s).outcome := rfl

/-- Settles O16: FT is a canonical table, and the write touches it alone. -/
theorem ftWriteLoadsOneEntry : Obligations.FtWriteLoadsOneEntry := by
  intro sym count s hwf
  obtain ⟨hrising, -⟩ := (memory_wf_iff s).1 hwf
  refine ⟨_, exec_ftWrite sym count s, rfl, ?_, fun sym' hne => ?_⟩
  · exact readFt_writeFt_same { s with flags := 0#5 } sym count hrising
  · exact readFt_writeFt_other { s with flags := 0#5 } count hne

/-- Settles O17, from ANALYZE on quiet streams. -/
theorem analyzeCountsTheSymbols : Obligations.AnalyzeCountsTheSymbols := by
  intro s X hquiet hX hlen
  obtain ⟨t, hrun, -, hcount, -, hframe⟩ := analyzeUnit_quiet hquiet hX hlen
  have htotal : t.total = BitVec.ofNat 32 X.length := by rw [hframe]
  have hflags : t.flags = favMask := by rw [hframe]
  refine ⟨t, by rw [exec_analyze, hrun, outcome_ok], ?_, hcount, hflags, ?_⟩
  · rw [htotal, BitVec.toNat_ofNat, Nat.mod_eq_of_lt (by omega)]
  · rw [hframe]

/-- Settles O18: a completed ANALYZE has the length of the pass in TOTAL, which has no room for it; and quiet streams
leave no other fault. -/
theorem analyzeOfTooLongAnInputOverflows : Obligations.AnalyzeOfTooLongAnInputOverflows := by
  intro s hquiet hlen
  obtain ⟨t, hexec, hcounted | hfault | hfault⟩ := (analyzeUnit_ends s).exists_next
  · have hlt := t.total.isLt
    have htotal := hcounted.total
    omega
  · obtain ⟨e, hmem, -⟩ := hfault
    rw [ioFault_of_quiet hquiet] at hmem
    cases hmem
  · obtain ⟨e, hmem, u, ⟨⟨-, hflags⟩, htotal⟩, rfl⟩ := hfault
    obtain rfl := List.mem_singleton.1 hmem
    exact ⟨_, hexec, rfl, htotal, hflags⟩

/-- Settles O19, from what ANALYZE can do. -/
theorem analyzeFrame : Obligations.AnalyzeFrame := by
  intro s t hexec
  rw [exec_analyze] at hexec
  rcases (analyzeUnit_ends s).of_outcome hexec with hcounted | hfault
  · have hframe := hcounted.frame
    refine ⟨?_, .inl ⟨hcounted.flags, ?_⟩⟩
    · rw [hframe]
    · rw [hframe]
      exact ⟨rfl, rfl⟩
  · obtain ⟨e, -, u, ⟨hkept, hflags⟩, rfl⟩ : Raised [(.ioError, 0x2#4), (.lengthOverflow, 0x2#4)]
        (fun u => AnalyzeKept s u ∧ u.flags = 0#5) t := by
      rcases hfault with hfault | hfault
      · exact hfault.imp (fun e he => by simp [(mem_ioFault.1 he).2]) fun _ hu => hu
      · exact hfault.imp (fun e he => by simp_all) fun _ hu => hu.1
    refine ⟨?_, .inr ⟨hflags, raise_isError _ _ _⟩⟩
    rw [hkept.frame]
    rfl

end Sys2Proof.Machine
end

section
/-! SUPPORT. The node store in its legal form (spec/10_state.md R20, R21, R24): entries 0 to NCOUNT - 1, children below
their parent. What is read there, that a new node keeps the form, and that every walk from a node in use ends. -/

namespace Sys2Proof.Machine

open Sys2Proof

/-! ### The legal form -/

/-- The entries in use are 0 to NCOUNT - 1, and children stand below their parent (R20, R21). -/
structure StoreLegal (s : State) : Prop where
  nodes : nodesLegal s = true
  children : childrenBelow s = true

theorem nodesLegal_iff (s : State) :
    nodesLegal s = true ↔
      s.node.map (fun e => e.1.toNat) = List.range s.nCount.toNat ∧ s.nCount.toNat ≤ Config.maxNodes := by
  simp [nodesLegal]

theorem childrenBelow_iff (s : State) :
    childrenBelow s = true ↔
      ∀ e ∈ s.node, ∀ w l r, e.2 = .internal w l r → l.toNat < e.1.toNat ∧ r.toNat < e.1.toNat := by
  rw [childrenBelow, List.all_eq_true]
  refine forall₂_congr fun e _ => ?_
  obtain ⟨i, n⟩ := e
  cases n with
  | leaf sym w => simp
  | internal w l r => simp

/-- The legal form is about NODE and NCOUNT alone. -/
theorem StoreLegal.congr {s t : State} (h : StoreLegal s) (hnode : t.node = s.node) (hcount : t.nCount = s.nCount) :
    StoreLegal t :=
  ⟨by rw [nodesLegal, hnode, hcount]; exact h.nodes, by rw [childrenBelow, hnode]; exact h.children⟩

theorem storeLegal_dropNodes (s : State) : StoreLegal (dropNodes s) := ⟨rfl, rfl⟩

/-- Keys in strictly rising order make a canonical table. -/
theorem rising_of_pairwise_lt {κ α : Type} {rank : κ → Nat} {t : Table κ α}
    (h : (t.map fun e => rank e.1).Pairwise (· < ·)) : Table.rising rank t = true := by
  induction t with
  | nil => rfl
  | cons e t ih =>
    obtain ⟨hfirst, hrest⟩ := List.pairwise_cons.1 h
    exact (rising_cons rank e.1 e.2 t).2 ⟨fun d hd => hfirst _ (List.mem_map.2 ⟨d, hd, rfl⟩), ih hrest⟩

/-- A legal node store is a canonical table. -/
theorem StoreLegal.rising {s : State} (h : StoreLegal s) : Table.rising idxRank s.node = true := by
  obtain ⟨hnodes, -⟩ := (nodesLegal_iff s).1 h.nodes
  refine rising_of_pairwise_lt ?_
  rw [show (s.node.map fun e => idxRank e.1) = List.range s.nCount.toNat from hnodes]
  exact List.pairwise_lt_range

/-- A key that is listed is found. -/
theorem find_ne_none_of_mem {κ α : Type} {rank : κ → Nat} {t : Table κ α} {e : κ × α} {k : κ} (he : e ∈ t)
    (hk : rank e.1 = rank k) : Table.find rank t k ≠ none := by
  induction t with
  | nil => cases he
  | cons d t ih =>
    rw [Table.find]
    split
    · exact Option.some_ne_none _
    · next hd =>
      rcases List.mem_cons.1 he with rfl | he
      · exact absurd hk hd
      · exact ih he

/-- An entry in use is listed, and is what a read answers. -/
theorem StoreLegal.mem_of_lt {s : State} (h : StoreLegal s) {i : NodeIdx} (hi : i.toNat < s.nCount.toNat) :
    (i, readNode s i) ∈ s.node := by
  obtain ⟨hnodes, -⟩ := (nodesLegal_iff s).1 h.nodes
  have hkey : i.toNat ∈ s.node.map fun e => e.1.toNat := hnodes ▸ List.mem_range.2 hi
  obtain ⟨e, he, hei⟩ := List.mem_map.1 hkey
  obtain ⟨v, hv⟩ := Option.ne_none_iff_exists'.1 (find_ne_none_of_mem (rank := idxRank) (k := i) he hei)
  obtain ⟨k, hk, hmem⟩ := mem_of_find hv
  rw [idxRank_inj.1 hk] at hmem
  rwa [readNode, hv]

/-- The children of a node in use are in use, below it. -/
theorem StoreLegal.children_lt {s : State} (h : StoreLegal s) {i l r : NodeIdx} {w : Weight}
    (hi : i.toNat < s.nCount.toNat) (hread : readNode s i = .internal w l r) :
    l.toNat < i.toNat ∧ r.toNat < i.toNat :=
  (childrenBelow_iff s).1 h.children _ (h.mem_of_lt hi) w l r hread

/-! ### A new node -/

/-- An entry above all others goes to the end of the table. -/
theorem put_of_forall_lt {κ α : Type} {rank : κ → Nat} {t : Table κ α} {k : κ} (v : α)
    (h : ∀ e ∈ t, rank e.1 < rank k) : Table.put rank t k v = t ++ [(k, v)] := by
  induction t with
  | nil => rfl
  | cons e t ih =>
    obtain ⟨hfirst, hrest⟩ := List.forall_mem_cons.1 h
    rw [Table.put, if_neg hfirst.asymm, if_neg hfirst.ne', ih hrest, List.cons_append]

theorem StoreLegal.node_stored {s : State} (h : StoreLegal s) (hroom : s.nCount.toNat < Config.maxNodes) (n : Node) :
    (stored n s).node = s.node ++ [(s.nCount.setWidth 17, n)] := by
  obtain ⟨hnodes, -⟩ := (nodesLegal_iff s).1 h.nodes
  refine put_of_forall_lt n fun e he => ?_
  have hkey : e.1.toNat ∈ List.range s.nCount.toNat := hnodes ▸ List.mem_map.2 ⟨e, he, rfl⟩
  rw [idxRank, idxRank, nextIdx_toNat _ hroom]
  exact List.mem_range.1 hkey

/-- The children of this node, if it has any, are in use. -/
def ChildrenInUse (s : State) (n : Node) : Prop :=
  ∀ w l r, n = .internal w l r → l.toNat < s.nCount.toNat ∧ r.toNat < s.nCount.toNat

theorem childrenInUse_leaf (s : State) (sym : Symbol) (w : Weight) : ChildrenInUse s (.leaf sym w) :=
  fun _ _ _ h => Node.noConfusion h

theorem childrenInUse_internal {s : State} (w : Weight) {a b : NodeIdx} (ha : a.toNat < s.nCount.toNat)
    (hb : b.toNat < s.nCount.toNat) : ChildrenInUse s (.internal w a b) := by
  rintro w' l r heq
  cases heq
  exact ⟨ha, hb⟩

/-- A new node over nodes in use keeps the form. -/
theorem StoreLegal.stored {s : State} (h : StoreLegal s) (hroom : s.nCount.toNat < Config.maxNodes) {n : Node}
    (hn : ChildrenInUse s n) : StoreLegal (stored n s) := by
  obtain ⟨hnodes, -⟩ := (nodesLegal_iff s).1 h.nodes
  have hnext := nextIdx_toNat s.nCount hroom
  constructor
  case nodes =>
    refine (nodesLegal_iff _).2 ⟨?_, ?_⟩
    · rw [h.node_stored hroom, nCount_stored n hroom, List.map_append, hnodes, List.range_succ]
      exact congrArg (fun i => _ ++ [i]) hnext
    · rw [nCount_stored n hroom]
      exact hroom
  case children =>
    refine (childrenBelow_iff _).2 fun e he w l r heq => ?_
    rw [h.node_stored hroom] at he
    rcases List.mem_append.1 he with he | he
    · exact (childrenBelow_iff s).1 h.children e he w l r heq
    · obtain rfl := List.mem_singleton.1 he
      rw [hnext]
      exact hn w l r heq

/-! ### Every walk from a node in use ends (42_dictionary_codec.md R105, 43_tree_serializer.md R117) -/

/-- A tree stands at every node in use, and its levels are at most as many as the indices up to it. -/
theorem StoreLegal.exists_standsAt {s : State} (h : StoreLegal s) (n : Nat) {i : NodeIdx} (hn : i.toNat < n)
    (hi : i.toNat < s.nCount.toNat) : ∃ T : CodeTree, T.standsAt s i = true ∧ T.levels ≤ n := by
  induction n generalizing i with
  | zero => omega
  | succ n ih =>
    cases hread : readNode s i with
    | leaf sym w => exact ⟨.leaf sym, CodeTree.standsAt_leaf.2 ⟨w, hread⟩, by simp [CodeTree.levels]⟩
    | internal w l r =>
      obtain ⟨hl, hr⟩ := h.children_lt hi hread
      obtain ⟨L, hL, hLn⟩ := ih (i := l) (by omega) (by omega)
      obtain ⟨R, hR, hRn⟩ := ih (i := r) (by omega) (by omega)
      exact ⟨.node L R, CodeTree.standsAt_node.2 ⟨w, l, r, hread, hL, hR⟩, by simp only [CodeTree.levels]; omega⟩

end Sys2Proof.Machine
end

section
/-! SUPPORT. BUILD (spec/41_tree_builder.md R92 to R101): the order of the queue, what the queue and the node store
keep through seeding and merging, and the result; with these the statements of this unit. -/

namespace Sys2Proof.Machine

open Sys2Proof

/-- Settles O21: the keys are pairs of numbers in lexicographic order, and distinct indices have distinct keys. -/
theorem queueKeysAreTotallyOrdered : Obligations.QueueKeysAreTotallyOrdered := by
  intro s i j k
  refine ⟨by simp [keyBefore], ?_, fun hne => ?_, fun hij hjk => ?_⟩
  · exact Bool.eq_false_iff.2 fun h => lt_irrefl _ (keyBefore_iff_queueKey_lt.1 h)
  · have hkey : queueKey s i ≠ queueKey s j := fun e => hne (queueKey_injective s e)
    exact (lt_or_gt_of_ne hkey).imp keyBefore_iff_queueKey_lt.2 keyBefore_iff_queueKey_lt.2
  · exact keyBefore_iff_queueKey_lt.2 ((keyBefore_iff_queueKey_lt.1 hij).trans (keyBefore_iff_queueKey_lt.1 hjk))

/-! ### What BUILD writes, from any state (R96) -/

/-- `t` differs from `s` in the queue and the node store alone. -/
def StoreKept (s t : State) : Prop := t = { s with pq := t.pq, node := t.node, nCount := t.nCount }

theorem StoreKept.refl (s : State) : StoreKept s s := rfl

theorem StoreKept.trans {s t u : State} (h : StoreKept s t) (h' : StoreKept t u) : StoreKept s u := by
  rw [StoreKept] at h h' ⊢
  rw [h', h]

section

variable {α : Type} {s t : State}

theorem pqExtractMin_ends (s : State) : (pqExtractMin s).Ends (fun _ => StoreKept s) (fun _ => False) True := by
  unfold pqExtractMin
  split
  · exact trivial
  · exact rfl

theorem allocNode_ends_kept (n : Node) (h : StoreKept s t) :
    (allocNode n t).Ends (fun _ => StoreKept s) (fun _ => False) True :=
  allocNode_ends (fun _ => h.trans rfl) fun _ => trivial

theorem mergeStep_ends (h : StoreKept s t) : (mergeStep t).Ends (fun _ => StoreKept s) (fun _ => False) True := by
  refine (pqExtractMin_ends t).bind fun a u hu => (pqExtractMin_ends u).bind fun b v hv => ?_
  exact (allocNode_ends_kept _ (h.trans (hu.trans hv))).bind fun i w hw => hw.trans rfl

theorem mergeLoop_ends (n : Nat) (h : StoreKept s t) :
    (mergeLoop n t).Ends (fun _ => StoreKept s) (fun _ => False) True := by
  induction n generalizing t with
  | zero => exact h
  | succ n ih =>
    rw [mergeLoop]
    split
    · exact h
    · exact (mergeStep_ends h).bind fun _ u hu => ih hu

theorem seedLeaves_ends (ft : Table Symbol Word32) (h : StoreKept s t) :
    (seedLeaves ft t).Ends (fun _ => StoreKept s) (fun _ => False) True := by
  induction ft generalizing t with
  | nil => exact h
  | cons e rest ih =>
    rw [seedLeaves]
    split
    · exact ih h
    · exact (allocNode_ends_kept _ h).bind fun i u hu => ih (hu.trans rfl)

/-- `t` differs from `s` in what BUILD writes. -/
def BuildKept (s t : State) : Prop :=
  t = { s with
    flags := (s.flags &&& 0b00001#5) ||| 0b00010#5, leafCnt := t.leafCnt, nCount := t.nCount, root := t.root
    node := t.node, pq := t.pq, draws := t.draws }

theorem buildTree_ends (h : StoreKept s t) :
    (buildTree t).Ends
      (fun _ u => u = { s with
        leafCnt := u.leafCnt, nCount := u.nCount, root := u.root, node := u.node, pq := u.pq })
      (fun _ => False) True := by
  rw [StoreKept] at h
  simp only [buildTree]
  split
  · rw [h]
    rfl
  · refine (mergeLoop_ends _ (StoreKept.refl _)).bind fun _ u hu => ?_
    refine (pqExtractMin_ends u).bind fun r v hv => ?_
    rw [StoreKept] at hu hv
    rw [hv, hu, h]
    rfl

/-- BUILD raises no fault (R96). -/
theorem buildUnit_ends (s : State) : (buildUnit s).Ends (fun _ => BuildKept s) (fun _ => False) True := by
  refine Flow.Ends.atEnd (P := fun _ t => BuildKept s (releasePq t)) (Q := fun _ => False) ?_ (fun _ _ h => h)
    fun _ h => h
  refine (seedLeaves_ends _ (StoreKept.refl (buildStart s))).bind fun _ t ht => ?_
  refine (buildTree_ends ht).bind fun _ u hu => ?_
  show BuildKept s (releasePq (setFlags trvMask u))
  rw [hu]
  rfl

end

/-! ### What the queue and the node store keep (R91 to R96) -/

/-- The queue holds distinct nodes in use, the newest among them; their weights add up to `W`; and every internal node
joins two nodes in the order of their keys, with their weights added. -/
structure QueueLegal (W : Nat) (s : State) : Prop where
  store : StoreLegal s
  nodup : s.pq.Nodup
  inUse : ∀ i ∈ s.pq, i.toNat < s.nCount.toNat
  newest : 1 ≤ s.nCount.toNat → ∃ i ∈ s.pq, i.toNat + 1 = s.nCount.toNat
  sum : (s.pq.map fun i => (weightOf s i).toNat).sum = W
  joined : ∀ (i : NodeIdx) (w : Weight) (a b : NodeIdx), i.toNat < s.nCount.toNat → readNode s i = .internal w a b →
    w.toNat = (weightOf s a).toNat + (weightOf s b).toNat ∧ keyBefore s a b = true

theorem weightOf_grown {s t : State} (h : Grown s t) {i : NodeIdx} (hi : i.toNat < s.nCount.toNat) :
    weightOf t i = weightOf s i := by
  rw [weightOf, h.read i hi, weightOf]

theorem keyBefore_grown {s t : State} (h : Grown s t) {i j : NodeIdx} (hi : i.toNat < s.nCount.toNat)
    (hj : j.toNat < s.nCount.toNat) : keyBefore t i j = keyBefore s i j := by
  simp only [keyBefore, weightOf_grown h hi, weightOf_grown h hj]

/-- An index in use is the newest one, or was in use before. -/
theorem lt_or_eq_nextIdx {s : State} (hroom : s.nCount.toNat < Config.maxNodes) {n : Node} {i : NodeIdx}
    (hi : i.toNat < (stored n s).nCount.toNat) : i.toNat < s.nCount.toNat ∨ i = s.nCount.setWidth 17 := by
  rw [nCount_stored n hroom] at hi
  rcases Nat.lt_succ_iff_lt_or_eq.1 hi with h | h
  · exact .inl h
  · exact .inr (BitVec.eq_of_toNat_eq (h.trans (nextIdx_toNat _ hroom).symm))

section

variable {W : Nat} {s : State}

/-- A node is created and queued, in a queue from which its children, if it has any, are taken. -/
theorem QueueLegal.stored (h : QueueLegal W s) (hroom : s.nCount.toNat < Config.maxNodes) {n : Node}
    (hn : ChildrenInUse s n) {pq : List NodeIdx} (hpq : pq.Sublist s.pq) {V : Nat}
    (hV : (nodeWeight n).toNat + (pq.map fun i => (weightOf s i).toNat).sum = V)
    (hjoin : ∀ w a b, n = .internal w a b →
      w.toNat = (weightOf s a).toNat + (weightOf s b).toNat ∧ keyBefore s a b = true) :
    QueueLegal V { Machine.stored n s with pq := s.nCount.setWidth 17 :: pq } := by
  let t : State := { Machine.stored n s with pq := s.nCount.setWidth 17 :: pq }
  have hg : Grown s t := (grown_stored n hroom).trans (Grown.of_eq rfl rfl)
  have hcount : t.nCount.toNat = s.nCount.toNat + 1 := nCount_stored n hroom
  have hnext := nextIdx_toNat s.nCount hroom
  have hnew : readNode t (s.nCount.setWidth 17) = n := readNode_stored_same n s
  have hold : ∀ i ∈ pq, i.toNat < s.nCount.toNat := fun i hi => h.inUse i (hpq.subset hi)
  constructor
  case store => exact (h.store.stored hroom hn).congr rfl rfl
  case nodup =>
    refine List.nodup_cons.2 ⟨fun hmem => ?_, hpq.nodup h.nodup⟩
    have := hold _ hmem
    omega
  case inUse =>
    intro i hi
    show i.toNat < t.nCount.toNat
    rcases List.mem_cons.1 hi with rfl | hi
    · omega
    · have := hold i hi
      omega
  case newest => exact fun _ => ⟨_, List.mem_cons_self, (congrArg (· + 1) hnext).trans hcount.symm⟩
  case sum =>
    have hrest : (pq.map fun i => (weightOf t i).toNat) = pq.map fun i => (weightOf s i).toNat :=
      List.map_congr_left fun i hi => by rw [weightOf_grown hg (hold i hi)]
    have hfirst : weightOf t (s.nCount.setWidth 17) = nodeWeight n := by rw [weightOf, hnew]
    rw [List.map_cons, List.sum_cons, hfirst, hrest, hV]
  case joined =>
    intro i w a b hi hread
    rcases lt_or_eq_nextIdx hroom (n := n) hi with hlt | rfl
    · rw [hg.read i hlt] at hread
      obtain ⟨ha, hb⟩ := h.store.children_lt hlt hread
      rw [weightOf_grown hg (ha.trans hlt), weightOf_grown hg (hb.trans hlt),
        keyBefore_grown hg (ha.trans hlt) (hb.trans hlt)]
      exact h.joined i w a b hlt hread
    · rw [hnew] at hread
      obtain ⟨ha, hb⟩ := hn w a b hread
      rw [weightOf_grown hg ha, weightOf_grown hg hb, keyBefore_grown hg ha hb]
      exact hjoin w a b hread

/-- Seeding one leaf raises the sum of the weights by its count. -/
theorem QueueLegal.seed (h : QueueLegal W s) (hroom : s.nCount.toNat < Config.maxNodes) (sym : Symbol) (w : Weight) :
    QueueLegal (W + w.toNat) (pqInsert (s.nCount.setWidth 17) (Machine.stored (.leaf sym w) s)) :=
  h.stored hroom (childrenInUse_leaf s sym w) (List.Sublist.refl _)
    (by rw [h.sum]; exact Nat.add_comm _ _) fun _ _ _ e => Node.noConfusion e

/-- A merge keeps the sum of the weights, as long as it fits a weight (R95). -/
theorem QueueLegal.merged (h : QueueLegal W s) (hroom : s.nCount.toNat < Config.maxNodes) (hW : W < 2 ^ 48)
    {a b : NodeIdx} (ha : a ∈ s.pq) (hb : b ∈ s.pq.erase a) (hleast : ∀ j ∈ s.pq, j ≠ a → keyBefore s a j = true) :
    QueueLegal W (merged a b s) := by
  obtain ⟨hba, hbmem⟩ := h.nodup.mem_erase_iff.1 hb
  have hsuma := List.sum_map_erase (fun i => (weightOf s i).toNat) ha
  have hsumb := List.sum_map_erase (fun i => (weightOf s i).toNat) hb
  have hsum := h.sum
  have hweight : (weightOf s a + weightOf s b).toNat = (weightOf s a).toNat + (weightOf s b).toNat := by
    rw [BitVec.toNat_add]
    exact Nat.mod_eq_of_lt (by omega)
  refine h.stored hroom (childrenInUse_internal _ (h.inUse a ha) (h.inUse b hbmem))
    ((List.erase_sublist).trans (List.erase_sublist)) ?_ ?_
  · rw [nodeWeight, hweight]
    omega
  · rintro w l r heq
    cases heq
    exact ⟨hweight, hleast b hbmem hba⟩

/-- Seeding: the leaves of the entries go to the next indices, in order (R96). -/
theorem QueueLegal.seedLeaves_ends (ft : Table Symbol Word32) (h : QueueLegal W s) (hft : ∀ e ∈ ft, e.2 ≠ 0#32)
    (hroom : s.nCount.toNat + ft.length ≤ Config.maxNodes) :
    (seedLeaves ft s).Ends
      (fun _ t => QueueLegal (W + tableSum ft) t ∧ Grown s t ∧ t.nCount.toNat = s.nCount.toNat + ft.length ∧
        t.pq.length = s.pq.length + ft.length ∧
        ∀ j e, ft[j]? = some e → readNode t (BitVec.ofNat 17 (s.nCount.toNat + j)) = .leaf e.1 (e.2.setWidth 48))
      (fun _ => False) False := by
  induction ft generalizing W s with
  | nil => exact ⟨h, Grown.of_eq rfl rfl, rfl, rfl, fun j e hj => by simp at hj⟩
  | cons d rest ih =>
    obtain ⟨sym, count⟩ := d
    obtain ⟨hcount, hrest⟩ := List.forall_mem_cons.1 hft
    rw [List.length_cons] at hroom
    have hone : s.nCount.toNat < Config.maxNodes := by omega
    let n : Node := .leaf sym (count.setWidth 48)
    let u := pqInsert (s.nCount.setWidth 17) (Machine.stored n s)
    have hu : u.nCount.toNat = s.nCount.toNat + 1 := nCount_stored n hone
    have hg : Grown s u := (grown_stored n hone).trans (Grown.of_eq rfl rfl)
    have hwide : (count.setWidth 48).toNat = count.toNat := by
      rw [BitVec.toNat_setWidth]
      exact Nat.mod_eq_of_lt (by omega)
    rw [seedLeaves, if_neg hcount, allocNode_of_room _ hone, bind_ok]
    refine (ih (h.seed hone sym (count.setWidth 48)) hrest (by rw [hu]; omega)).imp ?_ (fun _ h => h) fun h => h
    rintro - t ⟨hq, hgt, hcount, hlen, hleaves⟩
    refine ⟨?_, hg.trans hgt, ?_, ?_, fun j e hj => ?_⟩
    · have hsum : W + tableSum ((sym, count) :: rest) = W + (count.setWidth 48).toNat + tableSum rest := by
        rw [hwide, tableSum, List.map_cons, List.sum_cons, ← Nat.add_assoc]
        rfl
      rwa [hsum]
    · rw [hcount, hu, List.length_cons]
      omega
    · rw [hlen, pqInsert_pq, List.length_cons, List.length_cons]
      exact Nat.add_right_comm _ _ _
    · cases j with
      | zero =>
        cases hj
        have hidx : BitVec.ofNat 17 (s.nCount.toNat + 0) = s.nCount.setWidth 17 :=
          BitVec.eq_of_toNat_eq (by
            rw [nextIdx_toNat _ hone, BitVec.toNat_ofNat]
            simp only [Config.maxNodes] at hone
            omega)
        have hlt : (s.nCount.setWidth 17).toNat < u.nCount.toNat := by rw [nextIdx_toNat _ hone]; omega
        rw [hidx, hgt.read _ hlt]
        exact readNode_stored_same n s
      | succ j =>
        have hnext := hleaves j e hj
        rwa [hu, Nat.add_assoc, Nat.add_comm 1 j] at hnext

/-- Merging until one node remains: each merge trades a place in the queue for a node (R96). -/
theorem QueueLegal.mergeLoop_ends (n : Nat) (h : QueueLegal W s) (hW : W < 2 ^ 48) (hn : s.pq.length ≤ n + 1)
    (hpq : 1 ≤ s.pq.length) (hroom : s.nCount.toNat + s.pq.length ≤ Config.maxNodes + 1) :
    (mergeLoop n s).Ends
      (fun _ t => QueueLegal W t ∧ Grown s t ∧ StoreKept s t ∧ t.nCount.toNat + 1 = s.nCount.toNat + s.pq.length ∧
        t.pq.length = 1)
      (fun _ => False) False := by
  induction n generalizing s with
  | zero => exact ⟨h, Grown.of_eq rfl rfl, rfl, by omega, by omega⟩
  | succ n ih =>
    rw [mergeLoop]
    split
    · next hlen => exact ⟨h, Grown.of_eq rfl rfl, rfl, by omega, by omega⟩
    · next hlen =>
      have hone : s.nCount.toNat < Config.maxNodes := by omega
      obtain ⟨a, b, hmerge, ha, hb, hleast, -⟩ := mergeStep_of_two_le (by omega) hone
      have hpq' := length_pq_merged ha hb
      have hcount := nCount_merged hone a b
      have hg : Grown s (Machine.merged a b s) :=
        (grown_stored (.internal (weightOf s a + weightOf s b) a b) hone).trans (Grown.of_eq rfl rfl)
      rw [hmerge, bind_ok]
      refine (ih (h.merged hone hW ha hb hleast) (by omega) (by omega) (by omega)).imp ?_ (fun _ h => h) fun h => h
      rintro - t ⟨hq, hgt, hkept, hcount', hlast⟩
      exact ⟨hq, hg.trans hgt, StoreKept.trans (t := Machine.merged a b s) rfl hkept, by omega, hlast⟩

end

/-! ### The result of BUILD (R96, R97, R101) -/

/-- `t` holds the result of BUILD on the non-empty table of `s`. -/
structure Built (s t : State) : Prop where
  store : StoreLegal t
  leafCnt : t.leafCnt.toNat = s.ft.length
  nCount : t.nCount.toNat + 1 = 2 * s.ft.length
  root : ∃ r, t.root = some r ∧ r.toNat + 1 = t.nCount.toNat ∧ (weightOf t r).toNat = tableSum s.ft
  leaves : ∀ (j : Nat) (e : Symbol × Word32), s.ft[j]? = some e →
    readNode t (BitVec.ofNat 17 j) = .leaf e.1 (e.2.setWidth 48)
  joined : ∀ (i : NodeIdx) (w : Weight) (a b : NodeIdx), i.toNat < t.nCount.toNat → readNode t i = .internal w a b →
    w.toNat = (weightOf t a).toNat + (weightOf t b).toNat ∧ keyBefore t a b = true

/-- The sum of the counts of at most 65536 symbols fits a weight (00_scope.md R5). -/
theorem tableSum_ft_lt {s : State} (h : ftWf s) : tableSum s.ft < 2 ^ 48 := by
  have hlen := length_ft_le h
  have hsum := List.sum_le_card_nsmul (s.ft.map fun e => e.2.toNat) (2 ^ 32 - 1) fun n hn => by
    obtain ⟨e, -, rfl⟩ := List.mem_map.1 hn
    have := e.2.isLt
    omega
  simp only [List.length_map, smul_eq_mul, Config.maxLeaves] at hsum hlen
  have hmul := Nat.mul_le_mul_right (2 ^ 32 - 1) hlen
  exact lt_of_le_of_lt (hsum.trans hmul) (by decide)

/-- The last index in the queue is the root of a node store in legal form. -/
theorem QueueLegal.of_singleton {W : Nat} {s : State} {r : NodeIdx} (h : QueueLegal W s) (hpq : s.pq = [r])
    (hpos : 1 ≤ s.nCount.toNat) : r.toNat + 1 = s.nCount.toNat ∧ (weightOf s r).toNat = W := by
  obtain ⟨i, hi, hnew⟩ := h.newest hpos
  have hsum := h.sum
  rw [hpq, List.mem_singleton] at hi
  rw [hpq] at hsum
  exact ⟨hi ▸ hnew, by simpa using hsum⟩

/-- Building the tree of a queue of all the leaves: the node created last is its root. -/
theorem QueueLegal.buildTree_ends {W : Nat} {s : State} (h : QueueLegal W s) (hW : W < 2 ^ 48)
    (hpq : s.pq.length = s.nCount.toNat) (hpos : 1 ≤ s.nCount.toNat) (hmax : s.nCount.toNat ≤ 65536) :
    (buildTree s).Ends
      (fun _ t => ∃ u r, t = { u with root := some r, pq := [] } ∧ QueueLegal W u ∧ u.pq = [r] ∧ Grown s u ∧
        u.leafCnt.toNat = s.nCount.toNat ∧ u.nCount.toNat + 1 = 2 * s.nCount.toNat)
      (fun _ => False) False := by
  let u : State := { s with leafCnt := s.nCount.setWidth 32 }
  have hwide : u.leafCnt.toNat = s.nCount.toNat := by
    show (s.nCount.setWidth 32).toNat = _
    rw [BitVec.toNat_setWidth]
    exact Nat.mod_eq_of_lt (by omega)
  have hne : u.leafCnt ≠ 0#32 := fun e => by rw [e, BitVec.toNat_zero] at hwide; omega
  have hu : QueueLegal W u := ⟨h.store.congr rfl rfl, h.nodup, h.inUse, h.newest, h.sum, h.joined⟩
  have hloop := hu.mergeLoop_ends s.pq.length hW (Nat.le_succ _) (show 1 ≤ s.pq.length by omega)
    (show s.nCount.toNat + s.pq.length ≤ 131071 + 1 by omega)
  simp only [buildTree]
  rw [if_neg hne]
  refine hloop.bind fun _ v ⟨hq, hg, hkept, hcount, hlast⟩ => ?_
  obtain ⟨r, hr⟩ := List.length_eq_one_iff.1 hlast
  have hleaf : v.leafCnt = u.leafCnt := by rw [hkept]
  have hcount' : v.nCount.toNat + 1 = s.nCount.toNat + s.pq.length := hcount
  rw [pqExtractMin_of_singleton hr, bind_ok]
  exact ⟨v, r, rfl, hq, hr, (Grown.of_eq rfl rfl : Grown s u).trans hg, hleaf ▸ hwide, by omega⟩

theorem queueLegal_buildStart (s : State) : QueueLegal 0 (buildStart s) where
  store := (storeLegal_dropNodes s).congr rfl rfl
  nodup := List.nodup_nil
  inUse := fun _ hi => absurd hi List.not_mem_nil
  newest := fun h => absurd h (Nat.not_succ_le_zero 0)
  sum := rfl
  joined := fun _ _ _ _ h => absurd h (Nat.not_lt_zero _)

/-- BUILD of a non-empty canonical table completes with its result. -/
theorem buildUnit_ends_built {s : State} (h : ftWf s) (hft : s.ft ≠ []) :
    (buildUnit s).Ends (fun _ => Built s) (fun _ => False) False := by
  have hlen := length_ft_le h
  have hW := tableSum_ft_lt h
  have hpos := List.length_pos_of_ne_nil hft
  simp only [Config.maxLeaves] at hlen
  have hseed := (queueLegal_buildStart s).seedLeaves_ends s.ft h.2 (show 0 + s.ft.length ≤ 131071 by omega)
  rw [Nat.zero_add] at hseed
  refine Flow.Ends.atEnd (P := fun _ t => Built s (releasePq t)) (Q := fun _ => False) ?_ (fun _ _ h => h) fun _ h => h
  refine hseed.bind fun _ t ⟨hq, hg, hcount, hpq, hleaves⟩ => ?_
  have hcount' : t.nCount.toNat = s.ft.length := hcount.trans (Nat.zero_add _)
  have hpq' : t.pq.length = s.ft.length := hpq.trans (Nat.zero_add _)
  refine (hq.buildTree_ends hW (hpq'.trans hcount'.symm) (by omega) (by omega)).bind fun _ v hv => ?_
  obtain ⟨u, r, rfl, hqu, hr, hgu, hleaf, hn⟩ := hv
  obtain ⟨hroot, hweight⟩ := hqu.of_singleton hr (by omega)
  constructor
  case store => exact hqu.store.congr rfl rfl
  case leafCnt => exact hleaf.trans hcount'
  case nCount => exact hn.trans (congrArg (2 * ·) hcount')
  case root => exact ⟨r, rfl, hroot, hweight⟩
  case leaves =>
    intro j e hj
    have hlt : j < s.ft.length := (List.getElem?_eq_some_iff.1 hj).1
    have hidx : (BitVec.ofNat 17 j).toNat < t.nCount.toNat := by
      rw [BitVec.toNat_ofNat, Nat.mod_eq_of_lt (by omega), hcount']
      exact hlt
    have hread := hleaves j e hj
    rw [show (buildStart s).nCount.toNat + j = j from Nat.zero_add j] at hread
    exact (hgu.read _ hidx).trans hread
  case joined => exact hqu.joined

/-! ### The statements of this unit -/

/-- BUILD of a non-empty canonical table: its result, and what it leaves alone. -/
theorem exec_build_of_ftWf {s : State} (h : ftWf s) (hft : s.ft ≠ []) :
    ∃ t, exec .build s = .next t ∧ Built s t ∧ BuildKept s t := by
  obtain ⟨t, o, hrun, -⟩ := buildUnit_of_ftWf h
  exact ⟨t, by rw [exec_build, hrun, outcome_ok], (buildUnit_ends_built h hft).of_ok hrun,
    (buildUnit_ends s).of_ok hrun⟩

theorem ftWf_of_memory_wf {s : State} (h : Memory.wf s = true) : ftWf s := by
  obtain ⟨hrising, hnonzero, -⟩ := (memory_wf_iff s).1 h
  exact ⟨hrising, hnonzero⟩

/-- Settles O26, from the result of BUILD. -/
theorem buildLaysOutLeavesThenMerges : Obligations.BuildLaysOutLeavesThenMerges := by
  intro s hwf hft
  obtain ⟨t, hexec, hbuilt, hkept⟩ := exec_build_of_ftWf (ftWf_of_memory_wf hwf) hft
  obtain ⟨r, hroot, hr, -⟩ := hbuilt.root
  refine ⟨t, hexec, hbuilt.leafCnt, hbuilt.nCount, ⟨r, hroot, hr⟩, hbuilt.leaves, ?_, ?_⟩
  · rw [hkept]
  · rw [hkept]

/-- Settles O27: the tree of BUILD has the entries of FT as its leaves, and each merge adds the weights of the two least
keys, the least on the left. -/
theorem buildMakesOneTreeOfAllEntries : Obligations.BuildMakesOneTreeOfAllEntries := by
  intro s hwf hft
  have hcanonical := ftWf_of_memory_wf hwf
  obtain ⟨t, o, hrun, hholds, hsyms, -⟩ := buildUnit_of_ftWf hcanonical
  have hbuilt := (buildUnit_ends_built hcanonical hft).of_ok hrun
  obtain ⟨r, hroot, -, hweight⟩ := hbuilt.root
  obtain ⟨T, rfl⟩ : ∃ T, o = some T := by
    cases o with
    | none => rw [show t.root = none from hholds] at hroot; cases hroot
    | some T => exact ⟨T, rfl⟩
  have hstands : T.standsAt t r = true := by
    have htree : t.hasTree T = true := hholds
    rwa [State.hasTree, hroot] at htree
  refine ⟨t, r, T, by rw [exec_build, hrun, outcome_ok], hroot, hstands, hsyms, ?_, hweight, hbuilt.joined⟩
  rw [← T.length_syms]
  exact hsyms.length_eq.trans (List.length_map _)

end Sys2Proof.Machine
end

section
/-! SUPPORT. TreeSerializer (spec/43_tree_serializer.md): what a token can do, said once; the invariant of the token
loop (R124) and what TREE_RD can do; with these the statements of this unit. -/

namespace Sys2Proof.Machine

open Sys2Proof

/-! ### TREE_WR (R117) -/

theorem exec_treeWr (s : State) : exec .treeWr s = (treeWrUnit s).outcome := rfl

/-- Settles O37: TREE_WR writes the tokens of the state's tree, and the empty tree has none. -/
theorem treeWrWritesThePostorder : Obligations.TreeWrWritesThePostorder := by
  intro s htrv hquiet
  constructor
  · intro hroot
    have htokens : treeTokens s = some [] := by rw [treeTokens, hroot]
    simp only [exec_treeWr, treeWrUnit, require_of_true htrv, bind_ok, htokens, writeTokens, outcome_ok]
  · intro T hT hleaves
    obtain ⟨k, hrun⟩ := treeWrUnit_quiet (o := some T) htrv hquiet hT (hleaves.trans (by decide))
    exact ⟨_, by rw [exec_treeWr, hrun, outcome_ok], rfl⟩

/-! ### The fields a token reads or leaves alone -/

section

variable (sym : Symbol) (a b : NodeIdx) (below : List NodeIdx) (m k : Nat) (s : State)

@[simp] theorem bitsRead_inBits : (bitsRead m k s).inBits = { s.inBits with pos := s.inBits.pos + m } := rfl
@[simp] theorem bitsRead_ioAnswers : (bitsRead m k s).ioAnswers = s.ioAnswers.drop k := rfl
@[simp] theorem bitsRead_leafCnt : (bitsRead m k s).leafCnt = s.leafCnt := rfl
@[simp] theorem bitsRead_phase : (bitsRead m k s).phase = s.phase := rfl
@[simp] theorem bitsRead_remL : (bitsRead m k s).remL = s.remL := rfl
@[simp] theorem bitsRead_remI : (bitsRead m k s).remI = s.remI := rfl

@[simp] theorem leafPushed_inBits : (leafPushed sym s).inBits = s.inBits := rfl
@[simp] theorem leafPushed_ioAnswers : (leafPushed sym s).ioAnswers = s.ioAnswers := rfl
@[simp] theorem leafPushed_leafCnt : (leafPushed sym s).leafCnt = s.leafCnt := rfl
@[simp] theorem leafPushed_phase : (leafPushed sym s).phase = s.phase := rfl
@[simp] theorem leafPushed_remL : (leafPushed sym s).remL = s.remL - 1#17 := rfl
@[simp] theorem leafPushed_remI : (leafPushed sym s).remI = s.remI := rfl
@[simp] theorem leafPushed_stack : (leafPushed sym s).stack = s.nCount.setWidth 17 :: s.stack := rfl

@[simp] theorem topMerged_inBits : (topMerged a b below s).inBits = s.inBits := rfl
@[simp] theorem topMerged_ioAnswers : (topMerged a b below s).ioAnswers = s.ioAnswers := rfl
@[simp] theorem topMerged_leafCnt : (topMerged a b below s).leafCnt = s.leafCnt := rfl
@[simp] theorem topMerged_phase : (topMerged a b below s).phase = s.phase := rfl
@[simp] theorem topMerged_remL : (topMerged a b below s).remL = s.remL := rfl
@[simp] theorem topMerged_remI : (topMerged a b below s).remI = s.remI - 1#17 := rfl
@[simp] theorem topMerged_stack : (topMerged a b below s).stack = s.nCount.setWidth 17 :: below := rfl

end

/-! ### What a token can do (R115, R116, R121, R122) -/

/-- T_LEAF: CorruptStreamError without a leaf to come, else the leaf is pushed, unless the store is full. -/
theorem tokenLeaf_ends (sym : Symbol) (s : State) :
    (tokenLeaf sym s).Ends
      (fun _ t => s.remL ≠ 0#17 ∧ s.nCount.toNat < Config.maxNodes ∧ t = leafPushed sym s)
      (fun t => t = raise .corruptStream 0xA#4 s) (s.remL ≠ 0#17 ∧ Config.maxNodes ≤ s.nCount.toNat) := by
  by_cases hL : s.remL = 0#17
  · rw [tokenLeaf_of_remL_zero sym hL]
    exact rfl
  · by_cases hroom : s.nCount.toNat < Config.maxNodes
    · rw [tokenLeaf_of_room sym hL hroom]
      exact ⟨hL, hroom, rfl⟩
    · rw [tokenLeaf, if_neg hL, allocNode, if_neg hroom]
      exact ⟨hL, Nat.le_of_not_lt hroom⟩

/-- T_MERGE: CorruptStreamError without a merge to come or two nodes to join, else they are joined, unless the store is
full. -/
theorem tokenMerge_ends (s : State) :
    (tokenMerge s).Ends
      (fun _ t => s.remI ≠ 0#17 ∧ s.nCount.toNat < Config.maxNodes ∧
        ∃ a b below, s.stack = b :: a :: below ∧ t = topMerged a b below s)
      (fun t => t = raise .corruptStream 0xA#4 s) (s.remI ≠ 0#17 ∧ Config.maxNodes ≤ s.nCount.toNat) := by
  by_cases hI : s.remI = 0#17
  · rw [tokenMerge_of_remI_zero hI]
    exact rfl
  · by_cases hlen : s.stack.length < 2
    · rw [tokenMerge_of_short_stack hlen]
      exact rfl
    · obtain ⟨b, a, below, hstack⟩ : ∃ b a below, s.stack = b :: a :: below := by
        match hs : s.stack with
        | [] => simp [hs] at hlen
        | [b] => simp [hs] at hlen
        | b :: a :: below => exact ⟨b, a, below, rfl⟩
      by_cases hroom : s.nCount.toNat < Config.maxNodes
      · rw [tokenMerge_of_room hI hstack hroom]
        exact ⟨hI, hroom, a, b, below, hstack, rfl⟩
      · rw [tokenMerge, if_neg hI, hstack]
        simp only [allocNode, if_neg hroom, bind_stop]
        exact ⟨hI, Nat.le_of_not_lt hroom⟩

/-- What reading and performing a token makes of the state. -/
inductive TokenStep (s : State) : State → Prop where
  /-- A leaf token, where REML allows it. -/
  | leaf (sym : Symbol) (k : Nat) (hL : s.remL ≠ 0#17) (hroom : s.nCount.toNat < Config.maxNodes)
      (hlen : s.inBits.pos + 17 ≤ s.inBits.bits.length) : TokenStep s (leafPushed sym (bitsRead 17 k s))
  /-- A merge token, where REMI and the stack allow it. -/
  | merge (a b : NodeIdx) (below : List NodeIdx) (k : Nat) (hI : s.remI ≠ 0#17)
      (hroom : s.nCount.toNat < Config.maxNodes) (hstack : s.stack = b :: a :: below)
      (hlen : s.inBits.pos + 1 ≤ s.inBits.bits.length) : TokenStep s (topMerged a b below (bitsRead 1 k s))

section

variable {faults : List (ErrKind × Opcode)} {R : State → Prop} {S : Prop} {s : State}

/-- The token at the read position, whatever the bits and the collaborators' answers: it is read, or a fault leaves the
state as it was but for the bits and answers consumed. -/
theorem readToken_ends (hR : ∀ m k, R (bitsRead m k s)) (hcorrupt : (.corruptStream, 0xA#4) ∈ faults)
    (hio : ¬ s.quiet → (.ioError, 0xA#4) ∈ faults) :
    (readToken s).Ends
      (fun t u => (∃ k, u = bitsRead (encodeToken t).length k s) ∧ (s.remL = 0#17 → t = .merge) ∧
        s.inBits.pos + (encodeToken t).length ≤ s.inBits.bits.length)
      (Raised faults R) S := by
  refine (rdBits_ends (P := fun _ u => u = bitsRead 1 1 s ∧ s.inBits.pos + 1 ≤ s.inBits.bits.length)
    (fun hlen _ => ⟨rfl, hlen⟩) (fun _ => .of_raise hcorrupt (hR 0 1)) fun hq => .of_raise (hio hq) (hR 0 1)).bind ?_
  rintro flag u ⟨rfl, hlen⟩
  split
  · split
    · exact .of_raise hcorrupt (hR 1 1)
    · next hL =>
      have hsecond : R (bitsRead 0 1 (bitsRead 1 1 s)) := bitsRead_bitsRead 1 1 0 1 s ▸ hR 1 2
      have hsym : (rdBits 0xA#4 16 (bitsRead 1 1 s)).Ends
          (fun _ u => u = bitsRead 17 2 s ∧ s.inBits.pos + 17 ≤ s.inBits.bits.length) (Raised faults R) S :=
        rdBits_ends (fun hlen _ => ⟨bitsRead_bitsRead 1 1 16 1 s, hlen⟩) (fun _ => .of_raise hcorrupt hsecond)
          fun hq => .of_raise (hio fun h => hq (quiet_bitsRead h 1 1)) hsecond
      refine hsym.bind ?_
      rintro sym u ⟨rfl, hlen⟩
      have hbits : (encodeToken (.leaf sym)).length = 17 := by simp [encodeToken]
      show (∃ k, bitsRead 17 2 s = bitsRead (encodeToken (.leaf sym)).length k s) ∧ _ ∧ _
      rw [hbits]
      exact ⟨⟨2, rfl⟩, fun h => absurd h hL, hlen⟩
  · exact ⟨⟨1, rfl⟩, fun _ => rfl, hlen⟩

/-- Reading and performing the token at the read position. -/
theorem token_ends (hR : ∀ m k, R (bitsRead m k s)) (hcorrupt : (.corruptStream, 0xA#4) ∈ faults)
    (hio : ¬ s.quiet → (.ioError, 0xA#4) ∈ faults) (hfull : Config.maxNodes ≤ s.nCount.toNat → S) :
    ((readToken s).bind fun t s => performToken t s).Ends (fun _ => TokenStep s) (Raised faults R) S := by
  refine (readToken_ends hR hcorrupt hio).bind ?_
  rintro t u ⟨⟨k, rfl⟩, hleaf, hlen⟩
  cases t with
  | leaf sym =>
    have hbits : (encodeToken (.leaf sym)).length = 17 := by simp [encodeToken]
    rw [hbits] at hlen ⊢
    refine (tokenLeaf_ends sym (bitsRead 17 k s)).imp ?_ (fun t ht => ht ▸ .of_raise hcorrupt (hR _ _))
      fun h => hfull h.2
    rintro - t ⟨hL, hroom, rfl⟩
    exact .leaf sym k hL hroom hlen
  | merge =>
    refine (tokenMerge_ends (bitsRead 1 k s)).imp ?_ (fun t ht => ht ▸ .of_raise hcorrupt (hR _ _)) fun h => hfull h.2
    rintro - t ⟨hI, hroom, a, b, below, hstack, rfl⟩
    exact .merge a b below k hI hroom hstack hlen

end

/-- Every token lowers REML + REMI by one. -/
theorem TokenStep.counters {s t : State} (h : TokenStep s t) :
    t.remL.toNat + t.remI.toNat + 1 = s.remL.toNat + s.remI.toNat := by
  cases h with
  | leaf sym k hL hroom hlen =>
    simp only [leafPushed_remL, leafPushed_remI, bitsRead_remL, bitsRead_remI]
    bv_omega
  | merge a b below k hI hroom hstack hlen =>
    simp only [topMerged_remL, topMerged_remI, bitsRead_remL, bitsRead_remI]
    bv_omega

/-! ### The token loop (R121, R124) -/

/-- The token loop keeps whatever every token keeps; with passes left for all tokens both counters end at 0. -/
theorem tokenLoop_ends {faults : List (ErrKind × Opcode)} {I R : State → Prop} {S : Prop}
    (hstep : ∀ u v, I u → TokenStep u v → I v) (hR : ∀ u m k, I u → R (bitsRead m k u))
    (hcorrupt : (.corruptStream, 0xA#4) ∈ faults) (hio : ∀ u, I u → ¬ u.quiet → (.ioError, 0xA#4) ∈ faults)
    (hfull : ∀ u, I u → u.remL ≠ 0#17 ∨ u.remI ≠ 0#17 → Config.maxNodes ≤ u.nCount.toNat → S)
    (n : Nat) {s : State} (h : I s) :
    (tokenLoop n s).Ends
      (fun _ t => I t ∧ (s.remL.toNat + s.remI.toNat ≤ n → t.remL = 0#17 ∧ t.remI = 0#17)) (Raised faults R) S := by
  induction n generalizing s with
  | zero => exact ⟨h, fun hn => ⟨BitVec.eq_of_toNat_eq (by simp; omega), BitVec.eq_of_toNat_eq (by simp; omega)⟩⟩
  | succ n ih =>
    rw [tokenLoop]
    split
    · next hdone => exact ⟨h, fun _ => hdone⟩
    · next hmore =>
      rw [← bind_assoc]
      refine (token_ends (fun m k => hR s m k h) hcorrupt (hio s h)
        fun hf => hfull s h (not_and_or.1 hmore) hf).bind fun _ t ht => ?_
      have hcount := ht.counters
      exact (ih (hstep s t h ht)).imp (fun _ u hu => ⟨hu.1, fun hn => hu.2 (by omega)⟩) (fun _ h => h) fun h => h

/-- The loop invariant of TREE_RD (R124), on a legal node store and with a header that HDR_RD accepts. -/
structure Looping (s : State) : Prop where
  store : StoreLegal s
  stack : s.stack.length + s.remL.toNat = s.remI.toNat + 1
  count : s.nCount.toNat + s.remL.toNat + s.remI.toNat + 1 = 2 * s.leafCnt.toNat
  inUse : ∀ i ∈ s.stack, i.toNat < s.nCount.toNat
  newest : ∀ i, s.stack.head? = some i → i.toNat + 1 = s.nCount.toNat
  leaves : s.leafCnt.toNat ≤ Config.maxLeaves

/-- While a counter is positive there is room for a node. -/
theorem Looping.room {s : State} (h : Looping s) (hcount : s.remL ≠ 0#17 ∨ s.remI ≠ 0#17) :
    s.nCount.toNat < Config.maxNodes := by
  have hsum := h.count
  have hleaves := h.leaves
  simp only [Config.maxLeaves, Config.maxNodes] at hleaves ⊢
  have hpos : 1 ≤ s.remL.toNat + s.remI.toNat := by
    by_contra hzero
    exact hcount.elim (fun hL => hL (BitVec.eq_of_toNat_eq (by simp; omega)))
      fun hI => hI (BitVec.eq_of_toNat_eq (by simp; omega))
  omega

theorem Looping.bitsRead {s : State} (h : Looping s) (m k : Nat) : Looping (bitsRead m k s) :=
  ⟨h.store.congr rfl rfl, h.stack, h.count, h.inUse, h.newest, h.leaves⟩

/-- A leaf token keeps the loop invariant. -/
theorem Looping.leafPushed {s : State} (h : Looping s) (sym : Symbol) (hL : s.remL ≠ 0#17) :
    Looping (leafPushed sym s) := by
  have hroom := h.room (.inl hL)
  have hcount : (Machine.leafPushed sym s).nCount.toNat = s.nCount.toNat + 1 := nCount_stored (.leaf sym 0#48) hroom
  have hnext := nextIdx_toNat s.nCount hroom
  have hremL : (Machine.leafPushed sym s).remL.toNat + 1 = s.remL.toNat := by
    show (s.remL - 1#17).toNat + 1 = _
    bv_omega
  have hstack := h.stack
  have hsum := h.count
  constructor
  case store => exact (h.store.stored hroom (childrenInUse_leaf s sym 0#48)).congr rfl rfl
  case stack =>
    show s.stack.length + 1 + (Machine.leafPushed sym s).remL.toNat = s.remI.toNat + 1
    omega
  case count =>
    rw [hcount]
    show _ + s.remI.toNat + 1 = 2 * s.leafCnt.toNat
    omega
  case inUse =>
    intro i hi
    rw [hcount]
    rcases List.mem_cons.1 hi with rfl | hi
    · omega
    · have := h.inUse i hi
      omega
  case newest =>
    rintro i hi
    cases hi
    rw [hcount, hnext]
  case leaves => exact h.leaves

/-- A merge token keeps the loop invariant. -/
theorem Looping.topMerged {s : State} (h : Looping s) {a b : NodeIdx} {below : List NodeIdx} (hI : s.remI ≠ 0#17)
    (hs : s.stack = b :: a :: below) : Looping (topMerged a b below s) := by
  have hroom := h.room (.inr hI)
  have hcount : (Machine.topMerged a b below s).nCount.toNat = s.nCount.toNat + 1 :=
    nCount_stored (.internal 0#48 a b) hroom
  have hnext := nextIdx_toNat s.nCount hroom
  have hremI : (Machine.topMerged a b below s).remI.toNat + 1 = s.remI.toNat := by
    show (s.remI - 1#17).toNat + 1 = _
    bv_omega
  have hstack := h.stack
  have hsum := h.count
  have hinUse := h.inUse
  simp only [hs, List.length_cons, List.forall_mem_cons] at hstack hinUse
  obtain ⟨hb, ha, hbelow⟩ := hinUse
  constructor
  case store => exact (h.store.stored hroom (childrenInUse_internal 0#48 ha hb)).congr rfl rfl
  case stack =>
    show below.length + 1 + s.remL.toNat = (Machine.topMerged a b below s).remI.toNat + 1
    omega
  case count =>
    rw [hcount]
    show _ + s.remL.toNat + (Machine.topMerged a b below s).remI.toNat + 1 = 2 * s.leafCnt.toNat
    omega
  case inUse =>
    intro i hi
    rw [hcount]
    rcases List.mem_cons.1 hi with rfl | hi
    · omega
    · have := hbelow i hi
      omega
  case newest =>
    rintro i hi
    cases hi
    rw [hcount, hnext]
  case leaves => exact h.leaves

theorem Looping.tokenStep {s t : State} (h : Looping s) (ht : TokenStep s t) : Looping t := by
  cases ht with
  | leaf sym k hL hroom hlen => exact (h.bitsRead 17 k).leafPushed sym hL
  | merge a b below k hI hroom hstack hlen => exact (h.bitsRead 1 k).topMerged hI hstack

/-- At the end of the loop one index is left on the stack, that of the node created last (R121, R124). -/
theorem Looping.exists_stack_eq {s : State} (h : Looping s) (hL : s.remL = 0#17) (hI : s.remI = 0#17) :
    ∃ r, s.stack = [r] ∧ r.toNat + 1 = s.nCount.toNat ∧ s.nCount.toNat + 1 = 2 * s.leafCnt.toNat := by
  have hstack := h.stack
  have hcount := h.count
  rw [hL, hI] at hstack hcount
  obtain ⟨r, hr⟩ := List.length_eq_one_iff.1 (show s.stack.length = 1 by simpa using hstack)
  exact ⟨r, hr, h.newest r (by rw [hr]; rfl), by simpa using hcount⟩

/-! ### TREE_RD (R121) -/

/-- `t` differs from `s` in what TREE_RD writes and reads, with FLAGS `f`. -/
structure TreeRdKept (s : State) (f : BitVec 5) (t : State) : Prop where
  frame : t = { s with
    flags := f, node := t.node, nCount := t.nCount, root := t.root, stack := t.stack, remL := t.remL, remI := t.remI
    ioAnswers := t.ioAnswers, inBits := { s.inBits with pos := t.inBits.pos }, draws := t.draws, phase := t.phase }
  answers : t.ioAnswers <:+ s.ioAnswers
  phase : t.phase = s.phase ∨ t.phase = .idle

theorem TreeRdKept.bitsRead {s t : State} {f : BitVec 5} (h : TreeRdKept s f t) (m k : Nat) :
    TreeRdKept s f (bitsRead m k t) := by
  refine ⟨?_, suffix_drop h.answers k, h.phase⟩
  rw [h.frame]
  rfl

/-- A token takes answers of the collaborators and leaves the phase. -/
theorem TokenStep.answers_phase {s t : State} (h : TokenStep s t) :
    t.ioAnswers <:+ s.ioAnswers ∧ t.phase = s.phase := by
  cases h <;> simp [List.drop_suffix]

theorem TreeRdKept.tokenStep {s t u : State} {f : BitVec 5} (h : TreeRdKept s f t) (hu : TokenStep t u) :
    TreeRdKept s f u := by
  obtain ⟨hanswers, hphase⟩ := hu.answers_phase
  refine ⟨?_, hanswers.trans h.answers, hphase ▸ h.phase⟩
  have hframe := h.frame
  cases hu with
  | leaf sym k _ _ _ =>
    rw [hframe]
    rfl
  | merge a b below k _ _ _ _ =>
    rw [hframe]
    rfl

/-- The flags TREE_RD leaves at its start: FAV and HRV as they were, the others 0. -/
def treeRdFlags (s : State) : BitVec 5 := s.flags &&& 0b10001#5

/-- The faults of TREE_RD past its prerequisite (R122, R123). -/
def treeRdFaults (s : State) : List (ErrKind × Opcode) := ioFault s 0xA#4 ++ [(.corruptStream, 0xA#4)]

theorem corrupt_mem_treeRdFaults (s : State) : (.corruptStream, 0xA#4) ∈ treeRdFaults s :=
  List.mem_append_right _ List.mem_cons_self

theorem io_mem_treeRdFaults {s u : State} (h : u.ioAnswers <:+ s.ioAnswers) (hq : ¬ u.quiet) :
    (.ioError, 0xA#4) ∈ treeRdFaults s := List.mem_append_left _ (mem_ioFault_of_suffix h hq _)

theorem treeRdKept_treeRdStart (s : State) : TreeRdKept s (treeRdFlags s) (treeRdStart s) :=
  ⟨rfl, List.suffix_rfl, .inl rfl⟩

theorem treeRdKept_treeRdCounters (s : State) : TreeRdKept s (treeRdFlags s) (treeRdCounters s) :=
  ⟨rfl, List.suffix_rfl, .inl rfl⟩

theorem TreeRdKept.releaseStack_setFlags {s t : State} {f : BitVec 5} (h : TreeRdKept s f t) (m : BitVec 5) :
    TreeRdKept s (f ||| m) (releaseStack (setFlags m t)) := by
  refine ⟨?_, h.answers, h.phase⟩
  rw [h.frame]
  rfl

/-- TREE_RD past its prerequisite: without leaves the empty tree at once, else the loop and its end. -/
theorem treeRdUnit_of_hrv {s : State} (h : s.hrv = true) :
    treeRdUnit s =
      (if s.leafCnt = 0#32 then .ok () (setFlags trvMask { treeRdStart s with root := none })
        else (tokenLoop ((treeRdCounters s).remL.toNat + (treeRdCounters s).remI.toNat) (treeRdCounters s)).bind
          fun _ s => treeRdFinish s : Flow Unit).atEnd releaseStack := by
  simp only [treeRdUnit, require_of_true h, bind_ok]
  rfl

/-- A fault inside TREE_RD: what the tokens before it wrote stays, and the working state is released. -/
def TreeRdFaulted (s t : State) : Prop :=
  ∃ u, Raised (treeRdFaults s) (TreeRdKept s (treeRdFlags s)) u ∧ t = releaseStack u

/-- TREE_RD with a header, from any state: what it writes, and its faults. -/
theorem treeRdUnit_ends {s : State} (h : s.hrv = true) :
    (treeRdUnit s).Ends (fun _ => TreeRdKept s (treeRdFlags s ||| trvMask)) (TreeRdFaulted s) True := by
  rw [treeRdUnit_of_hrv h]
  refine Flow.Ends.atEnd (P := fun _ t => TreeRdKept s (treeRdFlags s ||| trvMask) (releaseStack t))
    (Q := Raised (treeRdFaults s) (TreeRdKept s (treeRdFlags s))) ?_ (fun _ _ h => h) fun t ht => ⟨t, ht, rfl⟩
  split
  · exact (show TreeRdKept s (treeRdFlags s) { treeRdStart s with root := none } from
      ⟨rfl, List.suffix_rfl, .inl rfl⟩).releaseStack_setFlags trvMask
  · refine (tokenLoop_ends (fun _ _ hu hv => hu.tokenStep hv) (fun _ m k hu => hu.bitsRead m k)
      (corrupt_mem_treeRdFaults s) (fun _ hu hq => io_mem_treeRdFaults hu.answers hq) (fun _ _ _ _ => trivial) _
      (treeRdKept_treeRdCounters s)).bind fun _ t ⟨ht, _⟩ => ?_
    unfold treeRdFinish
    split
    · exact trivial
    · next r below _ =>
      have hlast : TreeRdKept s (treeRdFlags s) { t with stack := below, root := some r, phase := .idle } := by
        refine ⟨?_, ht.answers, .inr rfl⟩
        rw [ht.frame]
      exact hlast.releaseStack_setFlags trvMask

/-- TREE_RD of `s` is under way in `t`: the loop invariant, every weight 0, and 18 L - 1 bits to be consumed in all. -/
structure Rebuilding (s t : State) : Prop extends Looping t where
  weights : ∀ i : NodeIdx, i.toNat < t.nCount.toNat → weightOf t i = 0#48
  consumed : t.inBits.pos + 17 * t.remL.toNat + t.remI.toNat + 1 = s.inBits.pos + 18 * s.leafCnt.toNat
  inRange : t.inBits.pos ≤ max s.inBits.pos s.inBits.bits.length
  bits : t.inBits.bits = s.inBits.bits
  leafCnt : t.leafCnt = s.leafCnt

theorem weightOf_stored_eq_zero {s : State} (hroom : s.nCount.toNat < Config.maxNodes)
    (h : ∀ i : NodeIdx, i.toNat < s.nCount.toNat → weightOf s i = 0#48) {n : Node} (hn : nodeWeight n = 0#48)
    (i : NodeIdx) (hi : i.toNat < (stored n s).nCount.toNat) : weightOf (stored n s) i = 0#48 := by
  rcases lt_or_eq_nextIdx hroom hi with hlt | rfl
  · rw [weightOf_grown (grown_stored n hroom) hlt, h i hlt]
  · rw [weightOf, readNode_stored_same, hn]

theorem Rebuilding.tokenStep {s t u : State} (h : Rebuilding s t) (hu : TokenStep t u) : Rebuilding s u := by
  obtain ⟨hloop, hweights, hconsumed, hrange, hbits, hleaf⟩ := h
  have hloop' := hloop.tokenStep hu
  cases hu with
  | leaf sym k hL hroom hlen =>
    have hremL : (t.remL - 1#17).toNat + 1 = t.remL.toNat := by bv_omega
    refine ⟨hloop', weightOf_stored_eq_zero (s := bitsRead 17 k t) hroom hweights (n := .leaf sym 0#48) rfl, ?_, ?_,
      by simpa using hbits, by simpa using hleaf⟩
    · simp only [leafPushed_inBits, leafPushed_remL, leafPushed_remI, bitsRead_inBits, bitsRead_remL, bitsRead_remI]
      omega
    · rw [hbits] at hlen
      simpa using Or.inr hlen
  | merge a b below k hI hroom hstack hlen =>
    have hremI : (t.remI - 1#17).toNat + 1 = t.remI.toNat := by bv_omega
    refine ⟨hloop', weightOf_stored_eq_zero (s := bitsRead 1 k t) hroom hweights (n := .internal 0#48 a b) rfl, ?_, ?_,
      by simpa using hbits, by simpa using hleaf⟩
    · simp only [topMerged_inBits, topMerged_remL, topMerged_remI, bitsRead_inBits, bitsRead_remL, bitsRead_remI]
      omega
    · rw [hbits] at hlen
      simpa using Or.inr hlen

/-- The counters of TREE_RD are LEAFCNT and one less. -/
theorem rebuilding_treeRdCounters {s : State} (hpos : 1 ≤ s.leafCnt.toNat) (hmax : s.leafCnt.toNat ≤ Config.maxLeaves) :
    Rebuilding s (treeRdCounters s) := by
  have hmax' := hmax
  simp only [Config.maxLeaves] at hmax'
  have hL : (treeRdCounters s).remL.toNat = s.leafCnt.toNat := by
    show (s.leafCnt.setWidth 17).toNat = _
    rw [BitVec.toNat_setWidth]
    exact Nat.mod_eq_of_lt (by omega)
  have hI : (treeRdCounters s).remI.toNat + 1 = s.leafCnt.toNat := by
    have hpred : (s.leafCnt - 1#32).toNat + 1 = s.leafCnt.toNat := by bv_omega
    show ((s.leafCnt - 1#32).setWidth 17).toNat + 1 = _
    rw [BitVec.toNat_setWidth, Nat.mod_eq_of_lt (by omega), hpred]
  constructor
  case toLooping =>
    exact ⟨(storeLegal_dropNodes s).congr rfl rfl, show 0 + (treeRdCounters s).remL.toNat = _ by omega,
      show 0 + (treeRdCounters s).remL.toNat + (treeRdCounters s).remI.toNat + 1 = 2 * s.leafCnt.toNat by omega,
      fun i hi => absurd hi List.not_mem_nil, fun i hi => (nomatch (show none = some i from hi)), hmax⟩
  case weights => exact fun i hi => absurd hi (Nat.not_lt_zero _)
  case consumed =>
    show s.inBits.pos + 17 * (treeRdCounters s).remL.toNat + (treeRdCounters s).remI.toNat + 1 = _
    omega
  case inRange => exact le_max_left _ _
  case bits => rfl
  case leafCnt => rfl

/-- The tree TREE_RD leaves: none for LEAFCNT = 0, else one whose root is the node created last, of 2 LEAFCNT - 1 nodes
of weight 0, read from 18 LEAFCNT - 1 bits (R121, R124, R125). -/
def Rebuilt (s t : State) : Prop :=
  s.leafCnt = 0#32 ∧ t.root = none ∧ t.nCount = 0#18 ∨
    ∃ r, t.root = some r ∧ r.toNat + 1 = t.nCount.toNat ∧ t.nCount.toNat + 1 = 2 * s.leafCnt.toNat ∧
      (∀ i : NodeIdx, i.toNat < t.nCount.toNat → weightOf t i = 0#48) ∧
      t.inBits.pos + 1 = s.inBits.pos + 18 * s.leafCnt.toNat ∧
      t.inBits.pos ≤ max s.inBits.pos s.inBits.bits.length

/-- TREE_RD with a header that HDR_RD accepted never stops, and leaves a legal node store on every outcome. -/
theorem treeRdUnit_ends_rebuilt {s : State} (h : s.hrv = true) (hmax : s.leafCnt.toNat ≤ Config.maxLeaves) :
    (treeRdUnit s).Ends (fun _ t => StoreLegal t ∧ Rebuilt s t) StoreLegal False := by
  rw [treeRdUnit_of_hrv h]
  refine Flow.Ends.atEnd (P := fun _ t => StoreLegal (releaseStack t) ∧ Rebuilt s (releaseStack t))
    (Q := fun t => StoreLegal (releaseStack t)) ?_ (fun _ _ h => h) fun t ht => ht
  split
  · next hzero => exact ⟨(storeLegal_dropNodes s).congr rfl rfl, .inl ⟨hzero, rfl, rfl⟩⟩
  · next hne =>
    have hpos : 1 ≤ s.leafCnt.toNat := Nat.one_le_iff_ne_zero.2 fun e => hne (BitVec.eq_of_toNat_eq e)
    refine Flow.Ends.bind (P := fun _ t => Rebuilding s t ∧ t.remL = 0#17 ∧ t.remI = 0#17) ?_ ?_
    · refine (tokenLoop_ends (I := Rebuilding s) (R := StoreLegal) (S := False)
        (faults := [(.ioError, 0xA#4), (.corruptStream, 0xA#4)]) (fun _ _ hu hv => hu.tokenStep hv)
        (fun _ m k hu => (hu.toLooping.bitsRead m k).store) (by simp) (fun _ _ _ => by simp)
        (fun u hu hc hf => absurd (hu.toLooping.room hc) (Nat.not_lt.2 hf)) _
        (rebuilding_treeRdCounters hpos hmax)).imp (fun _ t ht => ⟨ht.1, ht.2 le_rfl⟩) ?_ fun h => h
      rintro t ⟨e, -, u, hu, rfl⟩
      exact hu.congr rfl rfl
    · rintro - t ⟨ht, hL, hI⟩
      obtain ⟨r, hstack, hr, hcount⟩ := ht.toLooping.exists_stack_eq hL hI
      have hconsumed := ht.consumed
      rw [treeRdFinish_of_singleton hstack]
      refine ⟨ht.store.congr rfl rfl, .inr ⟨r, rfl, hr, ?_, ht.weights, ?_, ht.inRange⟩⟩
      · rw [← ht.leafCnt]
        exact hcount
      · simpa [hL, hI] using hconsumed

/-! ### The statements of this unit -/

/-- Settles O38: the tokens of the tree are read back one by one (R126), and the loop invariant counts its nodes. -/
theorem treeRdRebuildsTheSerializedTree : Obligations.TreeRdRebuildsTheSerializedTree := by
  intro s T rest hhrv hquiet hleaf hmax hb
  obtain ⟨t, hrun, hholds, -, -, hframe⟩ := treeRdUnit_of_tree (o := some T) hhrv hquiet hleaf hmax hb
  obtain ⟨-, hzero | ⟨r, hroot, hr, hcount, hweights, -⟩⟩ :=
    (treeRdUnit_ends_rebuilt hhrv (hleaf ▸ hmax)).of_ok hrun
  · have := T.leaves_pos
    rw [hzero.1] at hleaf
    exact absurd hleaf (by simp; omega)
  · have hlen := length_tokenBits T
    have hstands : T.standsAt t r = true := by
      have htree : t.hasTree T = true := hholds
      rwa [State.hasTree, hroot] at htree
    have hpos : (treeBitsOf (some T)).length = 18 * T.leaves - 1 := by
      show T.tokenBits.length = _
      omega
    refine ⟨t, r, by rw [exec_treeRd, hrun, outcome_ok], hroot, hstands, hleaf ▸ hcount, hr, hweights, ?_, ?_⟩
    · rw [hframe]
      rfl
    · rw [hpos] at hframe
      rw [hframe]

/-- TREE_RD of a truncated tree: a completed TREE_RD has consumed 18 LEAFCNT - 1 bits, which are not there, and quiet
streams leave no other fault. -/
theorem treeRdUnit_of_truncated {s : State} {T : CodeTree} (hhrv : s.hrv = true) (hquiet : s.quiet)
    (hleaf : s.leafCnt.toNat = T.leaves) (hmax : T.leaves ≤ 65536) (hshort : s.bitsAhead.length < T.tokenBits.length) :
    ∃ t, treeRdUnit s = .ended t ∧ t.status = 0xA5#8 ∧ t.trv = false := by
  have hlen := length_tokenBits T
  have hpos := T.leaves_pos
  simp only [State.bitsAhead, List.length_drop] at hshort
  have hends := (treeRdUnit_ends_rebuilt hhrv (hleaf ▸ hmax)).and (treeRdUnit_ends hhrv)
  cases hrun : treeRdUnit s with
  | ok a t =>
    obtain ⟨⟨-, hzero | ⟨r, -, -, -, -, hconsumed, hrange⟩⟩, -⟩ := hends.of_ok hrun
    · rw [hzero.1] at hleaf
      exact absurd hleaf (by simp; omega)
    · omega
  | ended t =>
    obtain ⟨-, u, ⟨e, hmem, v, hkept, rfl⟩, rfl⟩ := hends.of_ended hrun
    rw [treeRdFaults, ioFault_of_quiet hquiet, List.nil_append, List.mem_singleton] at hmem
    refine ⟨_, rfl, by rw [hmem]; rfl, ?_⟩
    have hflags : v.flags = s.flags &&& 0b10001#5 := by rw [hkept.frame]; rfl
    show v.flags.getLsbD 1 = false
    simp [hflags]
  | stop e =>
    rw [hrun] at hends
    exact hends.1.elim

/-- Settles O40: bits that end inside the tree are too few. -/
theorem treeRdOfATruncatedTreeIsCorrupt : Obligations.TreeRdOfATruncatedTreeIsCorrupt := by
  intro s T hhrv hquiet hleaf hmax hprefix hne
  have hshort : s.bitsAhead.length < T.tokenBits.length :=
    lt_of_le_of_ne hprefix.length_le fun e => hne (hprefix.eq_of_length e)
  obtain ⟨t, hrun, hstatus, htrv⟩ := treeRdUnit_of_truncated hhrv hquiet hleaf hmax hshort
  exact ⟨t, by rw [exec_treeRd, hrun, outcome_ended], hstatus, htrv⟩

end Sys2Proof.Machine
end

section
/-! SUPPORT. Encoder (spec/44_encoder.md): what HDR_WR, TREE_WR and ENC_BODY can do, said once, and ENC_BODY at the
first symbol without a code word; with these the statements of this unit. -/

namespace Sys2Proof.Machine

open Sys2Proof

theorem exec_hdrWr (s : State) : exec .hdrWr s = (hdrWrUnit s).outcome := rfl

theorem exec_encBody (s : State) : exec .encBody s = (encBodyUnit s).outcome := rfl

/-- Settles O41: the two fields are two calls. -/
theorem hdrWrWritesTheHeader : Obligations.HdrWrWritesTheHeader := by
  intro s hfav htrv hquiet
  rw [exec_hdrWr, hdrWrUnit_quiet hfav htrv hquiet, outcome_ok, List.append_assoc]
  rfl

/-- Settles O42, from ENC_BODY on quiet streams. -/
theorem encBodyEmitsTheCodeWords : Obligations.EncBodyEmitsTheCodeWords := by
  intro s X hfav hdev hquiet hX hct
  obtain ⟨t, hrun, -, hframe⟩ := encBodyUnit_quiet hfav hdev hquiet hX hct
  exact ⟨t, by rw [exec_encBody, hrun, outcome_ok], hframe⟩

/-! ### A symbol without a code word (R131) -/

theorem emitCode_of_none {sym : Symbol} {s : State} (h : readCt s sym = none) :
    emitCode sym s = .ended (raise .lookupMiss 0x7#4 s) := by
  rw [emitCode, h]

/-- The loop of ENC_BODY emits the code words of the symbols before the first that CT does not know. -/
theorem encBodyLoop_of_unknown (X : List Byte) {n : Nat} {s : State} {before after : List Symbol} {sym : Symbol}
    (hn : X.length < n) (h : s.quiet) (hX : s.bytesAhead = X) (hsyms : symbols X = before ++ sym :: after)
    (hbefore : ∀ x ∈ before, readCt s x ≠ none) (hsym : readCt s sym = none) :
    ∃ m k, encBodyLoop n s =
      .ended (raise .lookupMiss 0x7#4 (appendBits (before.flatMap s.codeOf) (bytesRead m k s))) := by
  obtain ⟨n, rfl⟩ : ∃ m, n = m + 1 := ⟨n - 1, by omega⟩
  induction X using symbols.induct generalizing n s before with
  | case1 => simp [symbols] at hsyms
  | case2 b =>
    obtain ⟨rfl, rfl, -⟩ : before = [] ∧ symbolOf b 0#8 = sym ∧ after = [] := by
      cases before <;> simp_all [symbols]
    have hmiss : emitCode (symbolOf b 0#8) (bytesRead 1 2 s) = .ended (raise .lookupMiss 0x7#4 (bytesRead 1 2 s)) :=
      emitCode_of_none hsym
    refine ⟨1, 2, ?_⟩
    simp only [encBodyLoop, rdByte_of_cons h hX, rdByte_of_singleton h hX, hmiss, bind_ok, List.flatMap_nil,
      appendBits_nil]
  | case3 b1 b2 rest ih =>
    simp only [List.length_cons] at hn
    cases before with
    | nil =>
      obtain ⟨rfl, -⟩ := List.cons.inj hsyms
      have hmiss : emitCode (symbolOf b1 b2) (bytesRead 2 2 s) = .ended (raise .lookupMiss 0x7#4 (bytesRead 2 2 s)) :=
        emitCode_of_none hsym
      refine ⟨2, 2, ?_⟩
      simp only [encBodyLoop, rdByte_of_cons h hX, rdByte_of_cons_cons h hX, hmiss, bind_ok, bind_ended,
        List.flatMap_nil, appendBits_nil]
    | cons x before =>
      obtain ⟨rfl, hsyms'⟩ := List.cons.inj hsyms
      obtain ⟨hfirst, hbefore'⟩ := List.forall_mem_cons.1 hbefore
      obtain ⟨j, hj⟩ := emitCode_quiet (sym := symbolOf b1 b2) (quiet_bytesRead h 2 2) hfirst
      rw [bytesRead_bytesRead] at hj
      obtain ⟨n, rfl⟩ : ∃ m, n = m + 1 := ⟨n - 1, by omega⟩
      obtain ⟨m, k, hk⟩ := ih (s := appendBits ((bytesRead 2 2 s).codeOf (symbolOf b1 b2)) (bytesRead 2 (2 + j) s))
        (quiet_bytesRead h 2 (2 + j)) (bytesAhead_bytesRead (X := [b1, b2]) (rest := rest) hX (2 + j)) hsyms' hbefore'
        hsym n (by omega)
      refine ⟨2 + m, 2 + j + k, ?_⟩
      rw [encBodyLoop]
      simp only [rdByte_of_cons h hX, rdByte_of_cons_cons h hX, hj, bind_ok, Nat.add_zero, hk, bytesRead_appendBits,
        bytesRead_bytesRead, appendBits_appendBits, List.flatMap_cons]
      rfl

/-- Settles O43: the command rewinds and runs the loop, which ends at the unknown symbol. -/
theorem encBodyOfAnUnknownSymbolMisses : Obligations.EncBodyOfAnUnknownSymbolMisses := by
  intro s before after sym hfav hdev hquiet hsyms hbefore hsym
  have hct : ∀ x, readCt (rewind s) x = readCt s x := fun x => by rw [readCt, rewind_ct, readCt]
  have hq : (rewind s).quiet := by rw [rewind_frame]; exact hquiet
  obtain ⟨m, k, hrun⟩ := encBodyLoop_of_unknown s.nextPass (n := (rewind s).inBytes.bytes.length + 1) (s := rewind s)
    (Nat.lt_succ_self _) hq (bytesAhead_rewind s) hsyms (fun x hx => (hct x).symm ▸ hbefore x hx)
    ((hct sym).trans hsym)
  rw [codeOf_congr (rewind_ct s)] at hrun
  have hexec : exec .encBody s =
      .next (raise .lookupMiss 0x7#4 (appendBits (before.flatMap s.codeOf) (bytesRead m k (rewind s)))) := by
    simp only [exec_encBody, encBodyUnit, hfav, hdev, Bool.and_self, require_of_true, bind_ok, hrun, outcome_ended]
  refine ⟨_, hexec, rfl, ?_⟩
  rw [rewind_frame]
  rfl

/-! ### What the three commands can do (R117, R130, R131) -/

section

variable {s : State}

/-- HDR_WR with its prerequisites. -/
theorem hdrWrUnit_ends (h : (s.fav && s.trv) = true) :
    (hdrWrUnit s).Ends (fun _ => Wrote s) (Raised (ioFault s 0x5#4) (Wrote s)) False := by
  rw [hdrWrUnit, require_of_true h, bind_ok]
  exact (wrBits_ends_wrote _ (Wrote.refl s)).bind fun _ t ht => wrBits_ends_wrote _ ht

theorem writeTokens_ends (ts : List Token) {t : State} {S : Prop} (h : Wrote s t) :
    (writeTokens ts t).Ends (fun _ => Wrote s) (Raised (ioFault s 0x6#4) (Wrote s)) S := by
  induction ts generalizing t with
  | nil => exact h
  | cons tok ts ih =>
    refine Flow.Ends.bind (P := fun _ => Wrote s) ?_ fun _ u hu => ih hu
    cases tok with
    | leaf sym => exact (wrBits_ends_wrote _ h).bind fun _ u hu => wrBits_ends_wrote _ hu
    | merge => exact wrBits_ends_wrote _ h

/-- TREE_WR with its prerequisite. -/
theorem treeWrUnit_ends (h : s.trv = true) :
    (treeWrUnit s).Ends (fun _ => Wrote s) (Raised (ioFault s 0x6#4) (Wrote s)) (treeTokens s = none) := by
  rw [treeWrUnit, require_of_true h, bind_ok]
  split
  · next hnone => exact hnone
  · exact writeTokens_ends _ (Wrote.refl s)

/-- `t` differs from `s` in what ENC_BODY writes and reads, with `p` bytes of the pass read. -/
structure EncBodyKept (s : State) (p : Nat) (t : State) : Prop where
  frame : t = { s with
    outBits := t.outBits, ioAnswers := t.ioAnswers, inBytes := { (rewind s).inBytes with pos := p } }
  outBits : s.outBits <+: t.outBits
  answers : t.ioAnswers <:+ s.ioAnswers
  inRange : p ≤ s.nextPass.length

/-- The faults of ENC_BODY past its prerequisites (R131). -/
def encBodyFaults (s : State) : List (ErrKind × Opcode) := ioFault s 0x7#4 ++ [(.lookupMiss, 0x7#4)]

/-- A fault ended ENC_BODY. -/
def EncBodyFaulted (s t : State) : Prop := Raised (encBodyFaults s) (fun u => ∃ p, EncBodyKept s p u) t

theorem encBodyKept_rewind (s : State) : EncBodyKept s 0 (rewind s) := by
  have hin : (rewind s).inBytes = { (rewind s).inBytes with pos := 0 } := by rw [← rewind_pos s]
  refine ⟨?_, by rw [rewind_outBits], by rw [rewind_ioAnswers], Nat.zero_le _⟩
  rw [rewind_frame]
  exact congrArg (fun b => { s with inBytes := b }) hin

variable {p : Nat} {t : State}

theorem EncBodyKept.wrote {u : State} (h : EncBodyKept s p t) (hu : Wrote t u) : EncBodyKept s p u := by
  obtain ⟨hframe, hout, hanswers⟩ := hu
  refine ⟨?_, h.outBits.trans hout, hanswers.trans h.answers, h.inRange⟩
  rw [hframe, h.frame]

theorem EncBodyKept.pos (h : EncBodyKept s p t) : t.inBytes.pos = p := by rw [h.frame]

theorem EncBodyKept.bytes (h : EncBodyKept s p t) : t.inBytes.bytes = s.nextPass := by
  rw [h.frame]
  rfl

theorem EncBodyKept.bytesRead_one (h : EncBodyKept s p t) (hpos : t.inBytes.pos < t.inBytes.bytes.length) :
    EncBodyKept s (p + 1) (bytesRead 1 1 t) := by
  rw [h.pos, h.bytes] at hpos
  refine ⟨?_, h.outBits, suffix_drop h.answers 1, hpos⟩
  rw [h.frame]
  rfl

theorem EncBodyKept.faulted_io (h : EncBodyKept s p t) (hq : ¬ t.quiet) {u : State} (hu : EncBodyKept s p u) :
    EncBodyFaulted s (raise .ioError 0x7#4 u) :=
  .of_raise (List.mem_append_left _ (mem_ioFault_of_suffix h.answers hq _)) ⟨p, hu⟩

/-- One `RdByte()` of ENC_BODY. -/
theorem EncBodyKept.rdByte_ends (h : EncBodyKept s p t) :
    (rdByte 0x7#4 t).Ends
      (fun b u => match b with
        | some _ => EncBodyKept s (p + 1) u
        | none => EncBodyKept s p u)
      (EncBodyFaulted s) False := by
  have hcall : EncBodyKept s p (bytesRead 0 1 t) := h.wrote (wrote_bytesRead 1 t)
  exact Machine.rdByte_ends (fun _ hpos => h.bytesRead_one hpos) (fun _ => hcall) fun hq => h.faulted_io hq hcall

/-- The code word of a symbol goes out, or CT has none. -/
theorem EncBodyKept.emitCode_ends (h : EncBodyKept s p t) (sym : Symbol) :
    (emitCode sym t).Ends (fun _ => EncBodyKept s p) (EncBodyFaulted s) False := by
  rw [emitCode]
  split
  · exact .of_raise (List.mem_append_right _ List.mem_cons_self) ⟨p, h⟩
  · refine (wrPath_ends_wrote _ (Wrote.refl t)).imp (fun _ u hu => h.wrote hu) ?_ fun h => h
    rintro u ⟨e, hmem, v, hv, rfl⟩
    obtain ⟨hq, rfl⟩ := mem_ioFault.1 hmem
    exact h.faulted_io hq (h.wrote hv)

/-- The loop of ENC_BODY, with passes left for the bytes ahead, does not run out of them. -/
theorem EncBodyKept.encBodyLoop_ends {n : Nat} (h : EncBodyKept s p t) (hn : s.nextPass.length < p + n) :
    (encBodyLoop n t).Ends (fun _ u => ∃ p, EncBodyKept s p u) (EncBodyFaulted s) False := by
  induction n generalizing p t with
  | zero =>
    have hrange := h.inRange
    omega
  | succ n ih =>
    rw [encBodyLoop]
    refine h.rdByte_ends.bind fun b₁ t₁ h₁ => ?_
    cases b₁ with
    | none => exact ⟨p, h₁⟩
    | some b₁ =>
      refine (EncBodyKept.rdByte_ends h₁).bind fun b₂ t₂ h₂ => ?_
      cases b₂ with
      | none => exact (EncBodyKept.emitCode_ends h₂ _).imp (fun _ u hu => ⟨_, hu⟩) (fun _ h => h) fun h => h
      | some b₂ => exact (EncBodyKept.emitCode_ends h₂ _).bind fun _ t₃ h₃ => ih h₃ (by omega)

/-- ENC_BODY with its prerequisites. -/
theorem encBodyUnit_ends (h : (s.fav && s.dev) = true) :
    (encBodyUnit s).Ends (fun _ t => ∃ p, EncBodyKept s p t) (EncBodyFaulted s) False := by
  simp only [encBodyUnit, require_of_true h, bind_ok]
  refine (encBodyKept_rewind s).encBodyLoop_ends ?_
  rw [Nat.zero_add]
  exact Nat.lt_succ_self _

end

/-! ### Their frames -/

/-- What the frames of HDR_WR, TREE_WR and ENC_BODY say of an outcome. -/
def OutputFrame (s t : State) : Prop :=
  t = { s with
    outBits := t.outBits, inBytes := t.inBytes, ioAnswers := t.ioAnswers, status := t.status
    errOffset := t.errOffset, draws := t.draws, phase := t.phase } ∧
  (t.isError = false → t.status = s.status ∧ t.errOffset = s.errOffset ∧ t.draws = s.draws ∧ t.phase = s.phase)

theorem outputFrame_raise {s u : State} (h : u = { s with
    outBits := u.outBits, inBytes := u.inBytes, ioAnswers := u.ioAnswers }) (k : ErrKind) (g : Opcode) :
    OutputFrame s (raise k g u) := by
  refine ⟨?_, fun hready => absurd ((raise_isError k g u).symm.trans hready) (by decide)⟩
  rw [h]
  rfl

theorem Wrote.outputFrame {s t : State} (h : Wrote s t) : OutputFrame s t ∧ t.inBytes = s.inBytes := by
  have hframe := h.1
  refine ⟨⟨?_, fun _ => ⟨?_, ?_, ?_, ?_⟩⟩, ?_⟩ <;> rw [hframe]

theorem Raised.outputFrame_of_wrote {faults : List (ErrKind × Opcode)} {s t : State} (h : Raised faults (Wrote s) t) :
    OutputFrame s t ∧ t.inBytes = s.inBytes := by
  obtain ⟨e, -, u, hu, rfl⟩ := h
  have hframe := hu.1
  refine ⟨outputFrame_raise ?_ _ _, hu.outputFrame.2⟩
  rw [hframe]

/-- HDR_WR, whatever its outcome. -/
theorem outputFrame_hdrWr {s t : State} (hexec : exec .hdrWr s = .next t) :
    OutputFrame s t ∧ t.inBytes = s.inBytes := by
  cases h : s.fav && s.trv with
  | false =>
    have hmissing : exec .hdrWr s = .next (raise .sequenceError 0x5#4 s) := require_bind_of_false h _ _ _
    cases hexec.symm.trans hmissing
    exact ⟨outputFrame_raise rfl _ _, rfl⟩
  | true =>
    rcases (hdrWrUnit_ends h).of_outcome hexec with hok | hfault
    · exact hok.outputFrame
    · exact hfault.outputFrame_of_wrote

/-- TREE_WR, whatever its outcome. -/
theorem outputFrame_treeWr {s t : State} (hexec : exec .treeWr s = .next t) :
    OutputFrame s t ∧ t.inBytes = s.inBytes := by
  cases h : s.trv with
  | false =>
    have hmissing : exec .treeWr s = .next (raise .sequenceError 0x6#4 s) := require_bind_of_false h _ _ _
    cases hexec.symm.trans hmissing
    exact ⟨outputFrame_raise rfl _ _, rfl⟩
  | true =>
    rcases (treeWrUnit_ends h).of_outcome hexec with hok | hfault
    · exact hok.outputFrame
    · exact hfault.outputFrame_of_wrote

/-- ENC_BODY, whatever its outcome. -/
theorem outputFrame_encBody {s t : State} (hexec : exec .encBody s = .next t) : OutputFrame s t := by
  cases h : s.fav && s.dev with
  | false =>
    have hmissing : exec .encBody s = .next (raise .sequenceError 0x7#4 s) := require_bind_of_false h _ _ _
    cases hexec.symm.trans hmissing
    exact outputFrame_raise rfl _ _
  | true =>
    rcases (encBodyUnit_ends h).of_outcome hexec with ⟨p, hok⟩ | ⟨e, -, u, ⟨p, hu⟩, rfl⟩
    · have hframe := hok.frame
      refine ⟨?_, fun _ => ⟨?_, ?_, ?_, ?_⟩⟩ <;> rw [hframe]
    · have hframe := hu.frame
      refine outputFrame_raise ?_ _ _
      rw [hframe]

/-- Settles O44, from what each of the three commands can do. -/
theorem outputCommandsFrame : Obligations.OutputCommandsFrame := by
  rintro i s t (rfl | rfl | rfl) hexec
  · obtain ⟨⟨hframe, hready⟩, hin⟩ := outputFrame_hdrWr hexec
    exact ⟨hframe, fun _ => hin, hready⟩
  · obtain ⟨⟨hframe, hready⟩, hin⟩ := outputFrame_treeWr hexec
    exact ⟨hframe, fun _ => hin, hready⟩
  · obtain ⟨hframe, hready⟩ := outputFrame_encBody hexec
    exact ⟨hframe, fun h => absurd rfl h, hready⟩

end Sys2Proof.Machine
end

section
/-! SUPPORT. Decoder (spec/45_decoder.md): what HDR_RD and DEC_BODY can do, said once, and DEC_BODY on bits that
complete no code word; with these the statements of this unit. -/

namespace Sys2Proof.Machine

open Sys2Proof

theorem exec_hdrRd (s : State) : exec .hdrRd s = (hdrRdUnit s).outcome := rfl

theorem exec_decBody (s : State) : exec .decBody s = (decBodyUnit s).outcome := rfl

/-! ### HDR_RD (R141) -/

/-- A header that HDR_RD accepts. -/
def HeaderAccepted (n l : Word32) : Prop := l.toNat ≤ Config.maxLeaves ∧ (l = 0#32 → n = 0#32)

theorem checkHeader_of_accepted {s : State} (h : HeaderAccepted s.total s.leafCnt) :
    checkHeader s = .ok () (setFlags hrvMask s) := by
  rw [checkHeader, if_neg (Nat.not_lt.2 h.1), if_neg fun e => e.2 (h.2 e.1)]

theorem checkHeader_of_not_accepted {s : State} (h : ¬ HeaderAccepted s.total s.leafCnt) :
    checkHeader s = .ended (raise .corruptStream 0x9#4 s) := by
  rw [checkHeader]
  split
  · rfl
  · next hle =>
    refine if_pos ?_
    by_contra hno
    exact h ⟨Nat.le_of_not_lt hle, fun hl => by_contra fun hn => hno ⟨hl, hn⟩⟩

/-- HDR_RD with 64 bits ahead reads both fields and then checks them. -/
theorem hdrRdUnit_of_fields {s : State} {n l : Word32} {rest : Bits} (h : s.quiet)
    (hb : s.bitsAhead = fieldBits n ++ (fieldBits l ++ rest)) :
    hdrRdUnit s = checkHeader (bitsRead 64 2 { s with flags := 0#5, total := n, leafCnt := l }) := by
  let s₀ : State := { s with flags := 0#5 }
  let s₁ : State := { bitsRead 32 1 s₀ with total := n }
  have hfirst : rdBits 0x9#4 32 s₀ = .ok n (bitsRead 32 1 s₀) := rdBits_bitsRead h (by decide) hb
  have hb₁ : s₁.bitsAhead = fieldBits l ++ rest := by
    have hrest := bitsAhead_bitsRead (s := s₀) hb 1
    rwa [length_fieldBits] at hrest
  have hsecond : rdBits 0x9#4 32 s₁ = .ok l (bitsRead 32 1 s₁) :=
    rdBits_bitsRead (quiet_bitsRead (s := s₀) h 32 1) (by decide) hb₁
  rw [hdrRdUnit, hfirst, bind_ok, hsecond, bind_ok]
  exact congrArg checkHeader
    (bitsRead_bitsRead 32 1 32 1 { s with flags := 0#5, total := n, leafCnt := l })

/-- `t` differs from `s` in what HDR_RD writes and reads, with FLAGS `f`. -/
structure HdrRdKept (s : State) (f : BitVec 5) (t : State) : Prop where
  frame : t = { s with
    flags := f, total := t.total, leafCnt := t.leafCnt, ioAnswers := t.ioAnswers
    inBits := { s.inBits with pos := t.inBits.pos } }
  answers : t.ioAnswers <:+ s.ioAnswers

/-- The faults of HDR_RD (R141). -/
def hdrRdFaults (s : State) : List (ErrKind × Opcode) := ioFault s 0x9#4 ++ [(.corruptStream, 0x9#4)]

theorem corrupt_mem_hdrRdFaults (s : State) : (.corruptStream, 0x9#4) ∈ hdrRdFaults s :=
  List.mem_append_right _ List.mem_cons_self

/-- HDR_RD, whatever the bits and the collaborators' answers. -/
theorem hdrRdUnit_ends (s : State) :
    (hdrRdUnit s).Ends
      (fun _ t => HdrRdKept s hrvMask t ∧ HeaderAccepted t.total t.leafCnt ∧
        s.inBits.pos + 64 ≤ s.inBits.bits.length)
      (Raised (hdrRdFaults s) (HdrRdKept s 0#5)) False := by
  have hio : ∀ u : State, u.ioAnswers <:+ s.ioAnswers → ¬ u.quiet → (.ioError, 0x9#4) ∈ hdrRdFaults s :=
    fun u hu hq => List.mem_append_left _ (mem_ioFault_of_suffix hu hq _)
  refine Flow.Ends.bind (P := fun _ t => t = bitsRead 32 1 { s with flags := 0#5 })
    (rdBits_ends (fun _ _ => rfl) (fun _ => .of_raise (corrupt_mem_hdrRdFaults s) ⟨rfl, List.drop_suffix _ _⟩)
      fun hq => .of_raise (hio _ List.suffix_rfl hq) ⟨rfl, List.drop_suffix _ _⟩) ?_
  rintro n t rfl
  have hsuffix : (s.ioAnswers.drop 1).drop 1 <:+ s.ioAnswers := (List.drop_suffix _ _).trans (List.drop_suffix _ _)
  refine Flow.Ends.bind
    (P := fun _ t => t = bitsRead 32 1 { bitsRead 32 1 { s with flags := 0#5 } with total := n } ∧
      s.inBits.pos + 64 ≤ s.inBits.bits.length)
    (rdBits_ends (fun hlen _ => ⟨rfl, hlen⟩) (fun _ => .of_raise (corrupt_mem_hdrRdFaults s) ⟨rfl, hsuffix⟩)
      fun hq => .of_raise (hio _ (List.drop_suffix 1 s.ioAnswers) hq) ⟨rfl, hsuffix⟩) ?_
  rintro l t ⟨rfl, hlen⟩
  let u : State := { bitsRead 32 1 { bitsRead 32 1 { s with flags := 0#5 } with total := n } with leafCnt := l }
  have hu : HdrRdKept s 0#5 u := ⟨rfl, hsuffix⟩
  by_cases hacc : HeaderAccepted u.total u.leafCnt
  · rw [show checkHeader _ = _ from checkHeader_of_accepted hacc]
    have hflags : setFlags hrvMask u = { u with flags := hrvMask } :=
      congrArg (fun f => { u with flags := f }) (show 0#5 ||| hrvMask = hrvMask by decide)
    exact hflags ▸ ⟨⟨rfl, hsuffix⟩, hacc, hlen⟩
  · rw [show checkHeader _ = _ from checkHeader_of_not_accepted hacc]
    exact .of_raise (corrupt_mem_hdrRdFaults s) hu

/-- Settles O47: with 64 bits ahead both fields are read before they are checked, and with fewer a completed HDR_RD is
impossible. -/
theorem hdrRdReadsAndChecksTheHeader : Obligations.HdrRdReadsAndChecksTheHeader := by
  intro s hquiet
  constructor
  · intro n l rest hb
    have hrun := hdrRdUnit_of_fields hquiet (hb.trans (List.append_assoc _ _ _))
    let u := bitsRead 64 2 { s with flags := 0#5, total := n, leafCnt := l }
    by_cases hacc : HeaderAccepted n l
    · have hcheck : checkHeader u = .ok () (setFlags hrvMask u) := checkHeader_of_accepted hacc
      refine ⟨setFlags hrvMask u, by rw [exec_hdrRd, hrun, hcheck, outcome_ok], fun _ => ⟨?_, rfl, rfl, rfl, rfl⟩, ?_,
        rfl⟩
      · show 0#5 ||| hrvMask = _
        decide
      · rintro (hl | ⟨hl, hn⟩)
        · exact absurd hacc.1 (Nat.not_le.2 hl)
        · exact absurd (hacc.2 hl) hn
    · have hcheck : checkHeader u = .ended (raise .corruptStream 0x9#4 u) := checkHeader_of_not_accepted hacc
      refine ⟨raise .corruptStream 0x9#4 u, by rw [exec_hdrRd, hrun, hcheck, outcome_ended], ?_, fun _ => ⟨rfl, rfl⟩,
        rfl⟩
      rintro ⟨hl, hzero⟩
      exact absurd ⟨hl, fun e => hzero.resolve_left (absurd e)⟩ hacc
  · intro hshort
    simp only [State.bitsAhead, List.length_drop] at hshort
    obtain ⟨t, hexec, ⟨-, -, hlen⟩ | ⟨e, hmem, u, hu, rfl⟩⟩ := (hdrRdUnit_ends s).exists_next
    · omega
    · rw [hdrRdFaults, ioFault_of_quiet hquiet, List.nil_append, List.mem_singleton] at hmem
      refine ⟨_, hexec, by rw [hmem]; rfl, ?_⟩
      rw [raise_flags, hu.frame]

/-! ### DEC_BODY on whole code words and on bits that complete none (R142, R146) -/

/-- Settles O48, from DEC_BODY on whole code words. -/
theorem decBodyEmitsTotalBytes : Obligations.DecBodyEmitsTotalBytes := by
  intro s picks rest hhrv hddv hquiet hpicks hlen hb
  obtain ⟨t, hrun, hframe⟩ := decBodyUnit_quiet hhrv hddv hquiet hpicks hlen hb
  exact ⟨t, by rw [exec_decBody, hrun, outcome_ok], hframe⟩

/-- Whole code words with bytes still to come: the loop goes on after them, with two bytes out for each. -/
theorem decBodyLoop_of_picks (picks : List (Symbol × Bits)) {n : Nat} {s : State} {rest : Bits} (h : s.quiet)
    (hpicks : s.matchesEach picks) (hlen : 2 * picks.length ≤ s.rem.toNat) (hpath : s.pathBuf = [])
    (hb : s.bitsAhead = pickBits picks ++ rest) :
    ∃ t, decBodyLoop (n + (pickBits picks).length) s = decBodyLoop n t ∧ t.quiet ∧ t.bitsAhead = rest ∧
      t.rem.toNat + 2 * picks.length = s.rem.toNat ∧ t.pathBuf = [] ∧
      t = { s with
        outBytes := s.outBytes ++ pickBytes picks
        inBits := { s.inBits with pos := s.inBits.pos + (pickBits picks).length }
        ioAnswers := t.ioAnswers, rem := t.rem, pathBuf := t.pathBuf } := by
  induction picks generalizing n s with
  | nil => exact ⟨s, rfl, h, hb, rfl, hpath, by simp [pickBytes, pickBits]⟩
  | cons e picks ih =>
    obtain ⟨⟨hne, hdepth, hkey, hshort⟩, hrest⟩ := List.forall_mem_cons.1 hpicks
    simp only [List.length_cons] at hlen
    have hrem : s.rem ≠ 0#32 := fun e => by simp [e] at hlen
    have hb' : s.bitsAhead = e.2 ++ (pickBits picks ++ rest) := by rw [hb, ← List.append_assoc]; rfl
    have hbits : (pickBits (e :: picks)).length = (pickBits picks).length + e.2.length := by
      rw [show pickBits (e :: picks) = e.2 ++ pickBits picks from rfl, List.length_append, Nat.add_comm]
    obtain ⟨k, hk⟩ := decBodyLoop_of_code (n := n + (pickBits picks).length) h hrem (by rw [hpath]; rfl) hne hb' hkey
      hshort hdepth
    let u := withPath e.2 (bitsRead e.2.length k s)
    have hu : u.quiet := quiet_bitsRead h e.2.length k
    have hout : symbolBytes u.rem.toNat e.1 = [hi8 e.1, lo8 e.1] := if_pos (show 2 ≤ s.rem.toNat by omega)
    have hemit : emitSymbol e.1 u = .ok () (emitted [hi8 e.1, lo8 e.1] u) := hout ▸ emitSymbol_quiet e.1 hu
    let v := emitted [hi8 e.1, lo8 e.1] u
    have hvrem : v.rem.toNat = s.rem.toNat - 2 := toNat_rem_emitted (s := u) (show 2 ≤ s.rem.toNat by omega)
    obtain ⟨t, ht, htq, htb, htrem, htpath, hf⟩ := ih (n := n) (s := v) (quiet_emitted hu _)
      (matchesEach_congr (emitted_dt _ u) (emitted_maxDepth _ u) hrest) (by omega) rfl
      ((bitsAhead_emitted _ u).trans (bitsAhead_bitsRead hb' k))
    refine ⟨t, by rw [hbits, ← Nat.add_assoc, hk, hemit, bind_ok, ht], htq, htb,
      by simp only [List.length_cons]; omega, htpath, ?_⟩
    have hbytes : pickBytes (e :: picks) = [hi8 e.1, lo8 e.1] ++ pickBytes picks := rfl
    rw [hf, hbits, hbytes]
    simp [v, u, emitted, withPath, bitsRead, Nat.add_assoc, Nat.add_comm]

@[simp] theorem bitsRead_outBytes (m k : Nat) (s : State) : (bitsRead m k s).outBytes = s.outBytes := rfl
@[simp] theorem withPath_outBytes (p : Bits) (s : State) : (withPath p s).outBytes = s.outBytes := rfl
@[simp] theorem withPath_inBits (p : Bits) (s : State) : (withPath p s).inBits = s.inBits := rfl
@[simp] theorem withPath_maxDepth (p : Bits) (s : State) : (withPath p s).maxDepth = s.maxDepth := rfl
@[simp] theorem withPath_pathBuf (p : Bits) (s : State) : (withPath p s).pathBuf = p := rfl
@[simp] theorem bitsRead_maxDepth (m k : Nat) (s : State) : (bitsRead m k s).maxDepth = s.maxDepth := rfl

/-- Bits that complete no key, within MAXDEPTH: the loop goes on with them in PATHBUF. -/
theorem decBodyLoop_of_no_key (r : Bits) {n : Nat} {s : State} {rest : Bits} (h : s.quiet) (hrem : s.rem ≠ 0#32)
    (hb : s.bitsAhead = r ++ rest) (hkey : ∀ q, q <+: r → q ≠ [] → readDt s (s.pathBuf ++ q) = none)
    (hdepth : (s.pathBuf ++ r).length ≤ s.maxDepth.toNat) :
    ∃ k, decBodyLoop (n + r.length) s = decBodyLoop n (withPath (s.pathBuf ++ r) (bitsRead r.length k s)) := by
  induction r generalizing s with
  | nil => exact ⟨0, by rw [List.append_nil]; rfl⟩
  | cons b r ih =>
    have hone := hkey [b] (by simp) (by simp)
    rw [List.length_append, List.length_cons] at hdepth
    let u := withPath (s.pathBuf ++ [b]) (bitsRead 1 1 s)
    have hkey' : ∀ q, q <+: r → q ≠ [] → readDt u (u.pathBuf ++ q) = none := fun q hq _ => by
      have := hkey (b :: q) (by simpa using hq) (List.cons_ne_nil _ _)
      show readDt s (s.pathBuf ++ [b] ++ q) = none
      rwa [List.append_assoc]
    have hdepth' : (u.pathBuf ++ r).length ≤ u.maxDepth.toNat := by
      show (s.pathBuf ++ [b] ++ r).length ≤ s.maxDepth.toNat
      simp only [List.length_append, List.length_singleton]
      omega
    obtain ⟨k, hk⟩ := ih (s := u) (quiet_bitsRead h 1 1) hrem (bitsAhead_bitsRead (bs := [b]) hb 1) hkey' hdepth'
    refine ⟨1 + k, ?_⟩
    have hstep := decBodyLoop_of_no_match (n := n + r.length) h hrem hb hone
      (by simp only [List.length_append, List.length_singleton]; omega)
    have hboth : withPath (u.pathBuf ++ r) (bitsRead r.length k u) =
        withPath (s.pathBuf ++ b :: r) (bitsRead r.length k (bitsRead 1 1 s)) := by
      show withPath (s.pathBuf ++ [b] ++ r) (bitsRead r.length k (bitsRead 1 1 s)) = _
      rw [List.append_assoc]
      rfl
    rw [List.length_cons, ← Nat.add_assoc, hstep, hk, hboth, bitsRead_bitsRead, Nat.add_comm 1 r.length]

/-- The end of the bits with bytes still to emit (R146 a). -/
theorem decBodyLoop_of_end {n : Nat} {s : State} (h : s.quiet) (hrem : s.rem ≠ 0#32) (hb : s.bitsAhead = []) :
    decBodyLoop (n + 1) s = .ended (raise .corruptStream 0xC#4 (bitsRead 0 1 s)) := by
  rw [decBodyLoop, if_neg hrem, rdBits_short h (by rw [hb]; exact Nat.one_pos), bind_ended]
  rfl

/-- A bit more than MAXDEPTH without a key (R146 b). -/
theorem decBodyLoop_of_overflow {b : Bool} {n : Nat} {s : State} {rest : Bits} (h : s.quiet) (hrem : s.rem ≠ 0#32)
    (hb : s.bitsAhead = b :: rest) (hkey : readDt s (s.pathBuf ++ [b]) = none)
    (hdepth : s.maxDepth.toNat < (s.pathBuf ++ [b]).length) :
    decBodyLoop (n + 1) s =
      .ended (raise .corruptStream 0xC#4 (withPath (s.pathBuf ++ [b]) (bitsRead 1 1 s))) := by
  have hkey' : readDt { bitsRead 1 1 s with pathBuf := (bitsRead 1 1 s).pathBuf ++ [b] }
      ((bitsRead 1 1 s).pathBuf ++ [b]) = none := hkey
  have hdepth' : (bitsRead 1 1 s).maxDepth.toNat < ((bitsRead 1 1 s).pathBuf ++ [b]).length := hdepth
  simp only [decBodyLoop, if_neg hrem, rdBits_bit h hb, bind_ok, fieldBits_ofBool, hkey', if_pos hdepth']
  rfl

/-- DEC_BODY after whole code words with bytes still to come: what its loop does on the bits after them decides. -/
theorem decBodyUnit_of_picks {s : State} {picks : List (Symbol × Bits)} {rest : Bits} (hhrv : s.hrv = true)
    (hddv : s.ddv = true) (h : s.quiet) (hpicks : s.matchesEach picks) (hlen : 2 * picks.length < s.total.toNat)
    (hb : s.bitsAhead = pickBits picks ++ rest) :
    ∃ t, decBodyUnit s = (decBodyLoop (rest.length + 1) t).atEnd releasePath ∧ t.quiet ∧ t.bitsAhead = rest ∧
      t.rem ≠ 0#32 ∧ t.pathBuf = [] ∧
      t = { s with
        outBytes := s.outBytes ++ pickBytes picks
        inBits := { s.inBits with pos := s.inBits.pos + (pickBits picks).length }
        ioAnswers := t.ioAnswers, rem := t.rem, pathBuf := t.pathBuf } := by
  let s' : State := { s with rem := s.total, pathBuf := [] }
  obtain ⟨t, ht, htq, htb, htrem, htpath, hf⟩ := decBodyLoop_of_picks picks (n := rest.length + 1) (s := s') h hpicks
    hlen.le rfl hb
  have hfuel : s.inBits.bits.length - s.inBits.pos + 1 = rest.length + 1 + (pickBits picks).length := by
    have := congrArg List.length hb
    rw [State.bitsAhead, List.length_drop, List.length_append] at this
    omega
  have hrem : t.rem ≠ 0#32 := fun e => by
    have htotal : t.rem.toNat + 2 * picks.length = s.total.toNat := htrem
    rw [e, BitVec.toNat_zero] at htotal
    omega
  refine ⟨t, ?_, htq, htb, hrem, htpath, hf⟩
  simp only [decBodyUnit, hhrv, hddv, Bool.and_self, require_of_true, bind_ok]
  rw [hfuel, ht]

/-- DEC_BODY on whole code words and the beginning of one more, after which the bits end (R146 a). -/
theorem decBodyUnit_of_truncated {s : State} {picks : List (Symbol × Bits)} {part : Bits} (hhrv : s.hrv = true)
    (hddv : s.ddv = true) (h : s.quiet) (hpicks : s.matchesEach picks) (hlen : 2 * picks.length < s.total.toNat)
    (hb : s.bitsAhead = pickBits picks ++ part) (hpart : ∀ q, q <+: part → q ≠ [] → readDt s q = none)
    (hdepth : part.length ≤ s.maxDepth.toNat) :
    ∃ t, decBodyUnit s = .ended t ∧ t.status = 0xC5#8 ∧ t.outBytes = s.outBytes ++ pickBytes picks := by
  obtain ⟨u, hrun, huq, hub, hurem, hupath, hf⟩ := decBodyUnit_of_picks hhrv hddv h hpicks hlen hb
  have hread : ∀ p, readDt u p = readDt s p := fun p => by rw [hf]; rfl
  have hmax : u.maxDepth = s.maxDepth := by rw [hf]
  have hout : u.outBytes = s.outBytes ++ pickBytes picks := by rw [hf]
  obtain ⟨k, hk⟩ := decBodyLoop_of_no_key part (n := 1) huq hurem (hub.trans (List.append_nil _).symm)
    (fun q hq hne => by rw [hupath, List.nil_append, hread]; exact hpart q hq hne)
    (by rw [hupath, List.nil_append, hmax]; exact hdepth)
  let v := withPath (u.pathBuf ++ part) (bitsRead part.length k u)
  have hvb : v.bitsAhead = [] := bitsAhead_bitsRead (hub.trans (List.append_nil _).symm) k
  have hend : decBodyLoop (0 + 1) v = .ended (raise .corruptStream 0xC#4 (bitsRead 0 1 v)) :=
    decBodyLoop_of_end (quiet_bitsRead huq part.length k) hurem hvb
  refine ⟨releasePath (raise .corruptStream 0xC#4 (bitsRead 0 1 v)), ?_, rfl, ?_⟩
  · rw [hrun, Nat.add_comm, hk, hend, atEnd_ended]
  · simp only [releasePath_outBytes, raise_outBytes, bitsRead_outBytes, withPath_outBytes, v, hout]

/-- Settles O49: after the code words before them, the bits end at once, or the last of MAXDEPTH + 1 bits overflows. -/
theorem decBodyOfACorruptBodyFaults : Obligations.DecBodyOfACorruptBodyFaults := by
  intro s picks hhrv hddv hquiet hpicks hlen
  constructor
  · intro hb
    obtain ⟨t, hrun, ht⟩ := decBodyUnit_of_truncated hhrv hddv hquiet hpicks hlen (hb.trans (List.append_nil _).symm)
      (fun q hq hne => absurd (List.prefix_nil.1 hq) hne) (Nat.zero_le _)
    exact ⟨t, by rw [exec_decBody, hrun, outcome_ended], ht⟩
  · intro body rest hbody hkey hb
    obtain ⟨r, b, rfl⟩ : ∃ r b, body = r ++ [b] :=
      ⟨_, _, (List.dropLast_append_getLast (List.ne_nil_of_length_pos (by omega))).symm⟩
    have hr : r.length = s.maxDepth.toNat := by simpa using hbody
    have hkey' : ∀ q, q <+: r ++ [b] → q ≠ [] → readDt s q = none := fun q hq hne =>
      hkey q ((List.mem_inits _ _).2 hq) hne
    obtain ⟨u, hrun, huq, hub, hurem, hupath, hf⟩ :=
      decBodyUnit_of_picks hhrv hddv hquiet hpicks hlen (hb.trans (List.append_assoc _ _ _))
    have hread : ∀ p, readDt u p = readDt s p := fun p => by rw [hf]; rfl
    have hmax : u.maxDepth = s.maxDepth := by rw [hf]
    have hout : u.outBytes = s.outBytes ++ pickBytes picks := by rw [hf]
    have hpos : u.inBits.pos = s.inBits.pos + (pickBits picks).length := by rw [hf]
    have hub' : u.bitsAhead = r ++ (b :: rest) := by rw [hub, List.append_assoc]; rfl
    obtain ⟨k, hk⟩ := decBodyLoop_of_no_key r (n := rest.length + 1 + 1) huq hurem hub'
      (fun q hq hne => by
        rw [hupath, List.nil_append, hread]
        exact hkey' q (hq.trans (List.prefix_append _ _)) hne)
      (by rw [hupath, List.nil_append, hmax, hr])
    let v := withPath (u.pathBuf ++ r) (bitsRead r.length k u)
    have hvpath : v.pathBuf = r := by rw [withPath_pathBuf, hupath, List.nil_append]
    have hover : decBodyLoop (rest.length + 1 + 1) v = .ended (raise .corruptStream 0xC#4
        (withPath (v.pathBuf ++ [b]) (bitsRead 1 1 v))) := by
      refine decBodyLoop_of_overflow (quiet_bitsRead huq r.length k) hurem (bitsAhead_bitsRead hub' k) ?_ ?_
      · rw [hvpath]
        exact (hread _).trans (hkey' _ List.prefix_rfl (by simp))
      · rw [hvpath, List.length_append, hr, withPath_maxDepth, bitsRead_maxDepth, hmax]
        exact Nat.lt_succ_self _
    refine ⟨releasePath (raise .corruptStream 0xC#4 (withPath (v.pathBuf ++ [b]) (bitsRead 1 1 v))), ?_, rfl, ?_, ?_⟩
    · have hfuel : (r ++ [b] ++ rest).length + 1 = rest.length + 1 + 1 + r.length := by
        simp only [List.length_append, List.length_singleton]
        omega
      rw [exec_decBody, hrun, hfuel, hk, hover, atEnd_ended, outcome_ended]
    · simp only [releasePath_outBytes, raise_outBytes, bitsRead_outBytes, withPath_outBytes, v, hout]
    · simp only [releasePath_inBits, raise_inBits, bitsRead_inBits, withPath_inBits, v, hpos, hr]

end Sys2Proof.Machine
end

section
/-! SUPPORT. What DEC_BODY can do (spec/45_decoder.md R142), and the frames of the three commands that read IN_BITS. -/

namespace Sys2Proof.Machine

open Sys2Proof

/-! ### What DEC_BODY can do -/

/-- `t` differs from `s` in what DEC_BODY writes and reads. -/
structure DecBodyKept (s t : State) : Prop where
  frame : t = { s with
    outBytes := t.outBytes, ioAnswers := t.ioAnswers, inBits := { s.inBits with pos := t.inBits.pos }
    rem := t.rem, pathBuf := t.pathBuf, draws := t.draws }
  outBytes : s.outBytes <+: t.outBytes
  answers : t.ioAnswers <:+ s.ioAnswers

/-- The faults of DEC_BODY past its prerequisites (R146). -/
def decBodyFaults (s : State) : List (ErrKind × Opcode) := ioFault s 0xC#4 ++ [(.corruptStream, 0xC#4)]

/-- A fault ended the loop of DEC_BODY. -/
def DecBodyRaised (s t : State) : Prop := Raised (decBodyFaults s) (DecBodyKept s) t

/-- A fault ended DEC_BODY: what the code words before it wrote stays, and the working state is released. -/
def DecBodyFaulted (s t : State) : Prop := ∃ u, DecBodyRaised s u ∧ t = releasePath u

section

variable {s t : State}

theorem DecBodyKept.bits (h : DecBodyKept s t) : t.inBits.bits = s.inBits.bits := by rw [h.frame]

theorem DecBodyKept.bitsRead (h : DecBodyKept s t) (m k : Nat) : DecBodyKept s (bitsRead m k t) := by
  refine ⟨?_, by rw [bitsRead_outBytes]; exact h.outBytes, suffix_drop h.answers k⟩
  rw [h.frame]
  rfl

theorem DecBodyKept.releasePath (h : DecBodyKept s t) : DecBodyKept s (releasePath t) := by
  refine ⟨?_, by rw [releasePath_outBytes]; exact h.outBytes, by rw [releasePath_ioAnswers]; exact h.answers⟩
  rw [h.frame]
  rfl

theorem DecBodyKept.appendBytes (h : DecBodyKept s t) (bs : List Byte) : DecBodyKept s (appendBytes bs t) := by
  refine ⟨?_, by rw [appendBytes_outBytes]; exact h.outBytes.trans (List.prefix_append _ _),
    by rw [appendBytes_ioAnswers]; exact h.answers⟩
  rw [h.frame]
  rfl

theorem DecBodyKept.raised_io (h : DecBodyKept s t) (hq : ¬ t.quiet) :
    DecBodyRaised s (raise .ioError 0xC#4 (Machine.bitsRead 0 1 t)) :=
  .of_raise (List.mem_append_left _ (mem_ioFault_of_suffix h.answers hq _)) (h.bitsRead 0 1)

theorem DecBodyKept.raised_corrupt (h : DecBodyKept s t) : DecBodyRaised s (raise .corruptStream 0xC#4 t) :=
  .of_raise (List.mem_append_right _ List.mem_cons_self) h

/-- The bytes of a symbol go out, one call each; the read position stays. -/
theorem DecBodyKept.wrBytes_ends (bs : List Byte) (h : DecBodyKept s t) :
    (wrBytes 0xC#4 bs t).Ends (fun _ u => DecBodyKept s u ∧ u.inBits = t.inBits) (DecBodyRaised s) False := by
  induction bs generalizing t with
  | nil => exact ⟨h, rfl⟩
  | cons b bs ih =>
    have hnext : DecBodyKept s (Machine.appendBytes [b] (Machine.bitsRead 0 1 t)) := (h.bitsRead 0 1).appendBytes [b]
    rw [wrBytes]
    refine (wrByte_ends (P := fun _ u => u = Machine.appendBytes [b] (Machine.bitsRead 0 1 t)) rfl
      fun hq => h.raised_io hq).bind ?_
    rintro - u rfl
    exact ih hnext

theorem DecBodyKept.emitSymbol_ends (sym : Symbol) (h : DecBodyKept s t) :
    (emitSymbol sym t).Ends (fun _ u => DecBodyKept s u ∧ u.inBits = t.inBits) (DecBodyRaised s) False := by
  rw [emitSymbol]
  refine (h.wrBytes_ends _).bind ?_
  rintro - u ⟨hu, hin⟩
  refine ⟨⟨?_, hu.outBytes, hu.answers⟩, hin⟩
  rw [hu.frame]

/-- The loop of DEC_BODY, with passes left for the bits ahead, does not run out of them. -/
theorem DecBodyKept.decBodyLoop_ends {n : Nat} (h : DecBodyKept s t)
    (hn : t.inBits.bits.length < t.inBits.pos + n) (hin : 1 ≤ n ∨ t.inBits.pos ≤ t.inBits.bits.length) :
    (decBodyLoop n t).Ends (fun _ => DecBodyKept s) (DecBodyRaised s) False := by
  induction n generalizing t with
  | zero => omega
  | succ n ih =>
    rw [decBodyLoop]
    split
    · exact h
    · refine (rdBits_ends
        (P := fun _ u => u = Machine.bitsRead 1 1 t ∧ t.inBits.pos + 1 ≤ t.inBits.bits.length)
        (fun hlen _ => ⟨rfl, hlen⟩)
        (fun _ => (h.bitsRead 0 1).raised_corrupt) fun hq => h.raised_io hq).bind ?_
      rintro b u ⟨rfl, hlen⟩
      let v := withPath ((Machine.bitsRead 1 1 t).pathBuf ++ fieldBits b) (Machine.bitsRead 1 1 t)
      have hv : DecBodyKept s v := by
        refine ⟨?_, (h.bitsRead 1 1).outBytes, (h.bitsRead 1 1).answers⟩
        simp only [v]
        rw [withPath, (h.bitsRead 1 1).frame]
      have hbits : v.inBits = { t.inBits with pos := t.inBits.pos + 1 } := by
        simp only [v, withPath_inBits, bitsRead_inBits]
      have hmore : ∀ w, DecBodyKept s w → w.inBits = v.inBits →
          (decBodyLoop n w).Ends (fun _ => DecBodyKept s) (DecBodyRaised s) False := fun w hw hin => by
        rw [hbits] at hin
        exact ih hw (by rw [hin]; show t.inBits.bits.length < t.inBits.pos + 1 + n; omega)
          (.inr (by rw [hin]; exact hlen))
      show Flow.Ends _ _ _ (match readDt v v.pathBuf with
        | some sym => (emitSymbol sym v).bind fun _ s => decBodyLoop n s
        | none =>
          if v.maxDepth.toNat < v.pathBuf.length then .ended (raise .corruptStream 0xC#4 v) else decBodyLoop n v)
      split
      · exact (hv.emitSymbol_ends _).bind fun _ w hw => hmore w hw.1 hw.2
      · split
        · exact hv.raised_corrupt
        · exact hmore v hv rfl

/-- DEC_BODY with its prerequisites. -/
theorem decBodyUnit_ends (h : (s.hrv && s.ddv) = true) :
    (decBodyUnit s).Ends (fun _ => DecBodyKept s) (DecBodyFaulted s) False := by
  rw [decBodyUnit, require_of_true h, bind_ok]
  have hstart : DecBodyKept s { s with rem := s.total, pathBuf := [] } := ⟨rfl, List.prefix_rfl, List.suffix_rfl⟩
  refine (hstart.decBodyLoop_ends ?_ (.inl (Nat.le_add_left 1 _))).atEnd (fun _ t ht => ht.releasePath)
    fun t ht => ⟨t, ht, rfl⟩
  show s.inBits.bits.length < s.inBits.pos + (s.inBits.bits.length - s.inBits.pos + 1)
  omega

end

/-! ### The frames of HDR_RD, TREE_RD and DEC_BODY -/

/-- The frame of HDR_RD. -/
theorem hdrRd_frame {s t : State} (hexec : exec .hdrRd s = .next t) :
    t = { s with
      flags := t.flags, total := t.total, leafCnt := t.leafCnt, inBits := t.inBits, ioAnswers := t.ioAnswers
      status := t.status, errOffset := t.errOffset, draws := t.draws, phase := t.phase } ∧
    t.inBits.bits = s.inBits.bits ∧ (t.flags = 0#5 ∨ t.flags = 0b10000#5) := by
  rcases (hdrRdUnit_ends s).of_outcome hexec with ⟨hkept, -, -⟩ | ⟨e, -, u, hu, rfl⟩
  · have hframe := hkept.frame
    refine ⟨?_, ?_, .inr ?_⟩
    · rw [hframe]
    · rw [hframe]
    · rw [hframe]
      rfl
  · have hframe := hu.frame
    refine ⟨?_, ?_, .inl ?_⟩
    · rw [hframe]
      rfl
    · rw [raise_inBits, hframe]
    · rw [raise_flags, hframe]

/-- The flags of TREE_RD that it leaves as they were. -/
theorem treeRdFlags_fav_hrv (s : State) (m : BitVec 5) (hm : m = 0#5 ∨ m = trvMask) :
    (treeRdFlags s ||| m).getLsbD 0 = s.fav ∧ (treeRdFlags s ||| m).getLsbD 4 = s.hrv := by
  rcases hm with rfl | rfl <;> simp [treeRdFlags, State.fav, State.hrv, trvMask]

/-- The frame of TREE_RD. -/
theorem treeRd_frame {s t : State} (hexec : exec .treeRd s = .next t) :
    t = { s with
      node := t.node, nCount := t.nCount, root := t.root, flags := t.flags, inBits := t.inBits
      ioAnswers := t.ioAnswers, stack := t.stack, remL := t.remL, remI := t.remI
      status := t.status, errOffset := t.errOffset, draws := t.draws, phase := t.phase } ∧
    t.inBits.bits = s.inBits.bits ∧ t.fav = s.fav ∧ t.hrv = s.hrv ∧
    (t.isError = false → t.status = s.status ∧ t.errOffset = s.errOffset) := by
  cases h : s.hrv with
  | false =>
    have hmissing : exec .treeRd s = .next (raise .sequenceError 0xA#4 s) := require_bind_of_false h _ _ _
    cases hexec.symm.trans hmissing
    exact ⟨rfl, rfl, rfl, h, fun hready => absurd ((raise_isError _ _ _).symm.trans hready) (by decide)⟩
  | true =>
    rcases (treeRdUnit_ends h).of_outcome hexec with hkept | ⟨-, ⟨e, -, u, hu, rfl⟩, rfl⟩
    · have hframe := hkept.frame
      have hflags : t.flags = treeRdFlags s ||| trvMask := by rw [hframe]
      obtain ⟨hfav, hhrv⟩ := treeRdFlags_fav_hrv s trvMask (.inr rfl)
      refine ⟨?_, ?_, ?_, ?_, fun _ => ⟨?_, ?_⟩⟩
      · rw [hframe]
      · rw [hframe]
      · rw [State.fav, hflags, hfav]
      · rw [State.hrv, hflags, hhrv, h]
      · rw [hframe]
      · rw [hframe]
    · have hframe := hu.frame
      have hflags : u.flags = treeRdFlags s ||| 0#5 := by rw [hframe, BitVec.or_zero]
      obtain ⟨hfav, hhrv⟩ := treeRdFlags_fav_hrv s 0#5 (.inl rfl)
      refine ⟨?_, ?_, ?_, ?_, fun hready => absurd ((raise_isError e.1 e.2 u).symm.trans hready) (by decide)⟩
      · rw [hframe]
        rfl
      · rw [releaseStack_inBits, raise_inBits, hframe]
      · rw [State.fav, releaseStack_flags, raise_flags, hflags, hfav]
      · rw [State.hrv, releaseStack_flags, raise_flags, hflags, hhrv, h]

/-- The frame of DEC_BODY. -/
theorem decBody_frame {s t : State} (hexec : exec .decBody s = .next t) :
    t = { s with
      outBytes := t.outBytes, inBits := t.inBits, ioAnswers := t.ioAnswers, rem := t.rem, pathBuf := t.pathBuf
      status := t.status, errOffset := t.errOffset, draws := t.draws, phase := t.phase } ∧
    t.inBits.bits = s.inBits.bits ∧ (t.isError = false → t.status = s.status ∧ t.errOffset = s.errOffset) := by
  cases h : s.hrv && s.ddv with
  | false =>
    have hmissing : exec .decBody s = .next (raise .sequenceError 0xC#4 s) := require_bind_of_false h _ _ _
    cases hexec.symm.trans hmissing
    exact ⟨rfl, rfl, fun hready => absurd ((raise_isError _ _ _).symm.trans hready) (by decide)⟩
  | true =>
    rcases (decBodyUnit_ends h).of_outcome hexec with hkept | ⟨-, ⟨e, -, u, hu, rfl⟩, rfl⟩
    · have hframe := hkept.frame
      refine ⟨?_, ?_, fun _ => ⟨?_, ?_⟩⟩ <;> rw [hframe]
    · have hframe := hu.frame
      refine ⟨?_, ?_, fun hready => absurd ((raise_isError e.1 e.2 u).symm.trans hready) (by decide)⟩
      · rw [hframe]
        rfl
      · rw [releasePath_inBits, raise_inBits, hframe]

/-- Settles O50, from what each of the three commands can do. -/
theorem inputCommandsFrame : Obligations.InputCommandsFrame :=
  fun _ _ => ⟨hdrRd_frame, treeRd_frame, decBody_frame⟩

end Sys2Proof.Machine
end

section
/-! SUPPORT. DECOMPRESS on a file (spec/45_decoder.md R144): the stages before DEC_BODY as one, and the statement about
valid files. -/

namespace Sys2Proof.Machine

open Sys2Proof

/-- The stages of DECOMPRESS that emit nothing: HDR_RD, TREE_RD and DICT_DEC, after the CORE is cleared. -/
def load (s : State) : Flow Unit :=
  (hdrRdUnit (clearCore s)).bind fun _ s => (treeRdUnit s).bind fun _ s => dictDecUnit s

theorem decompressUnit_eq_load_bind (s : State) : decompressUnit s = (load s).bind fun _ s => decBodyUnit s := by
  simp only [decompressUnit, load, clearUnit, bind_ok, bind_assoc]

theorem exec_decompress (s : State) : exec .decompress s = (decompressUnit s).outcome := rfl

/-- DECOMPRESS before its first emitted byte: it began in `s` and has read a header with TOTAL `n` and the tree `o`. -/
structure Loaded (s : State) (n : Word32) (o : Option CodeTree) (t : State) : Prop where
  flags : t.flags = 0b11010#5
  leafCnt : t.leafCnt.toNat = leavesOf o
  tree : t.holds o
  keys : ∀ p sym, readDt t p = some sym ↔ (sym, p) ∈ codesOf o
  depth : ∀ e ∈ codesOf o, e.2.length ≤ t.maxDepth.toNat
  quiet : t.quiet
  frame : t = { clearCore s with
    flags := t.flags, total := n, leafCnt := t.leafCnt, node := t.node, nCount := t.nCount, root := t.root
    dt := t.dt, maxDepth := t.maxDepth, ioAnswers := t.ioAnswers
    inBits := { s.inBits with pos := s.inBits.pos + (64 + (treeBitsOf o).length) }
    stack := t.stack, remL := t.remL, remI := t.remI, draws := t.draws, phase := t.phase }

/-- The header and the tree of a file. -/
def headOf (n : Word32) (o : Option CodeTree) : Bits :=
  fieldBits n ++ fieldBits (BitVec.ofNat 32 (leavesOf o)) ++ treeBitsOf o

theorem length_headOf (n : Word32) (o : Option CodeTree) : (headOf n o).length = 64 + (treeBitsOf o).length := by
  simp [headOf, ← Nat.add_assoc]

section LoadedFacts

variable {s t : State} {n : Word32} {o : Option CodeTree}

theorem Loaded.hrv (h : Loaded s n o t) : t.hrv = true := by rw [State.hrv, h.flags]; rfl

theorem Loaded.ddv (h : Loaded s n o t) : t.ddv = true := by rw [State.ddv, h.flags]; rfl

theorem Loaded.total (h : Loaded s n o t) : t.total = n := by rw [h.frame]

/-- What follows the header and the tree is ahead. -/
theorem Loaded.bitsAhead (h : Loaded s n o t) {rest : Bits} (hb : s.bitsAhead = headOf n o ++ rest) :
    t.bitsAhead = rest := by
  have hin : t.inBits = { s.inBits with pos := s.inBits.pos + (headOf n o).length } := by
    rw [length_headOf, h.frame]
  rw [State.bitsAhead, hin]
  exact bitsAhead_seekBits hb s rfl

/-- Code words of the tree match one after the other. -/
theorem Loaded.matchesEach (h : Loaded s n o t) {picks : List (Symbol × Bits)} (hpicks : ∀ e ∈ picks, e ∈ codesOf o) :
    t.matchesEach picks := matchesEach_of_mem_codesOf h.keys h.depth hpicks

end LoadedFacts

/-- The stages before DEC_BODY read the header and the tree of a file, whatever follows. -/
theorem load_of_file {s : State} {n : Word32} {o : Option CodeTree} {rest : Bits} (h : s.quiet)
    (hmax : leavesOf o ≤ Config.maxLeaves) (hempty : leavesOf o = 0 → n = 0#32)
    (hb : s.bitsAhead = headOf n o ++ rest) :
    ∃ t, load s = .ok () t ∧ Loaded s n o t := by
  let l : Word32 := BitVec.ofNat 32 (leavesOf o)
  let s₁ : State := bitsRead 64 2 { clearCore s with flags := hrvMask, total := n, leafCnt := l }
  have hl : l.toNat = leavesOf o := (BitVec.toNat_ofNat _ _).trans (Nat.mod_eq_of_lt (hmax.trans_lt (by decide)))
  have hb₁ : (clearCore s).bitsAhead = (fieldBits n ++ fieldBits l) ++ (treeBitsOf o ++ rest) := by
    rw [show (clearCore s).bitsAhead = s.bitsAhead from rfl, hb, headOf]
    simp only [List.append_assoc, l]
  have h₁ : hdrRdUnit (clearCore s) = .ok () s₁ :=
    hdrRdUnit_of_header h (hb₁.trans (List.append_assoc _ _ _)) (hl ▸ hmax)
      fun e => hempty (by rw [← hl, e]; rfl)
  have hb₂ : s₁.bitsAhead = treeBitsOf o ++ rest := by
    have hrest := bitsAhead_bitsRead hb₁ 2
    rwa [List.length_append, length_fieldBits, length_fieldBits] at hrest
  obtain ⟨s₂, h₂, ho, hq₂, -, hf₂⟩ := treeRdUnit_of_tree (s := s₁) (show hrvMask.getLsbD 4 = true by decide)
    (quiet_bitsRead (s := clearCore s) h 64 2) hl hmax hb₂
  have hflags₂ : s₂.flags = hrvMask &&& ~~~(trvMask ||| devMask ||| ddvMask) ||| trvMask := by rw [hf₂]; rfl
  obtain ⟨t, h₃, hkeys, hdepth, hf₃⟩ := dictDecUnit_of_holds (by rw [State.trv, hflags₂]; rfl) ho hmax
  refine ⟨t, by rw [load, h₁, bind_ok, h₂, bind_ok, h₃], ?_⟩
  constructor
  case flags =>
    rw [show t.flags = s₂.flags &&& ~~~ddvMask ||| ddvMask by rw [hf₃], hflags₂]
    decide
  case leafCnt => rw [hf₃, hf₂]; exact hl
  case tree => exact (holds_congr (by rw [hf₃]) (by rw [hf₃])).2 ho
  case keys => exact hkeys
  case depth => exact hdepth
  case quiet => rw [hf₃]; exact hq₂
  case frame =>
    rw [hf₃, hf₂]
    simp [s₁, bitsRead, clearCore, dropNodes, Nat.add_assoc]

/-- DECOMPRESS on a file (R144): whole code words after the tree are decoded until TOTAL bytes are out. -/
theorem decompressUnit_of_picks {s : State} {n : Word32} {o : Option CodeTree} {picks : List (Symbol × Bits)}
    {rest : Bits} (h : s.quiet) (hmax : leavesOf o ≤ Config.maxLeaves) (hempty : leavesOf o = 0 → n = 0#32)
    (hpicks : ∀ e ∈ picks, e ∈ codesOf o) (hlen : picks.length = (n.toNat + 1) / 2)
    (hb : s.bitsAhead = headOf n o ++ (pickBits picks ++ rest)) :
    ∃ t u, exec .decompress s = .next u ∧ Loaded s n o t ∧ u = { t with
      outBytes := s.outBytes ++ (pickBytes picks).take n.toNat
      inBits := { s.inBits with pos := s.inBits.pos + (64 + (treeBitsOf o).length) + (pickBits picks).length }
      ioAnswers := u.ioAnswers, rem := u.rem, pathBuf := u.pathBuf, draws := u.draws } := by
  obtain ⟨t, hload, ht⟩ := load_of_file h hmax hempty hb
  obtain ⟨u, hbody, hu⟩ := decBodyUnit_quiet ht.hrv ht.ddv ht.quiet (ht.matchesEach hpicks) (by rw [ht.total, hlen])
    (ht.bitsAhead hb)
  refine ⟨t, u, ?_, ht, ?_⟩
  · rw [exec_decompress, decompressUnit_eq_load_bind, hload, bind_ok, hbody, outcome_ok]
  · rw [hu, ht.total]
    have hout : t.outBytes = s.outBytes := by rw [ht.frame]; rfl
    have hin : t.inBits = { s.inBits with pos := s.inBits.pos + (64 + (treeBitsOf o).length) } := by rw [ht.frame]
    rw [hout, hin]

/-- Settles O51: both files are read by the same run, the empty one with the empty tree and no code word. -/
theorem decompressReadsAValidFile : Obligations.DecompressReadsAValidFile := by
  intro s n rest h
  constructor
  · intro T picks hmax hpicks hlen hb
    have hb' : s.bitsAhead = headOf n (some T) ++ (pickBits picks ++ rest) := by
      rw [hb, ← List.append_assoc]
      rfl
    obtain ⟨t, u, hrun, ht, hu⟩ := decompressUnit_of_picks (o := some T) h hmax
      (fun e => absurd e (Nat.ne_of_gt T.leaves_pos)) hpicks hlen hb'
    have hframe := ht.frame
    have htree : u.holds (some T) := (holds_congr (by rw [hu]) (by rw [hu])).2 ht.tree
    refine ⟨u, hrun, ?_, ?_, ?_, ?_, htree, ?_, ?_, ?_, ?_, ?_, ?_, ?_⟩ <;> rw [hu]
    · rw [hframe]; rfl
    · exact ht.flags
    · exact ht.total
    · exact ht.leafCnt
    · rw [hframe]; rfl
    · rw [hframe]; rfl
    · exact congrArg (· + _) (Nat.add_assoc _ _ _).symm
    · rw [hframe]; rfl
    · rw [hframe]; rfl
    · rw [hframe]; rfl
  · intro hb
    obtain ⟨t, u, hrun, ht, hu⟩ := decompressUnit_of_picks (o := none) (picks := []) (rest := rest) h (Nat.zero_le _)
      (fun _ => rfl) (by simp) rfl (by rw [hb]; simp [headOf, leavesOf, treeBitsOf, pickBits])
    have hframe := ht.frame
    refine ⟨u, hrun, ?_, ?_, ?_, ?_, ?_⟩ <;> rw [hu]
    · rw [hframe]; rfl
    · exact ht.flags
    · exact ht.tree
    · simp [pickBytes]
    · simp [treeBitsOf, pickBits]

end Sys2Proof.Machine
end

section
/-! SUPPORT. The invariant of the CORE's state (spec/10_state.md R13 to R24), part by part: what each part is about,
and the three claims a piece of a command keeps together. -/

namespace Sys2Proof.Machine

open Sys2Proof

/-! ### The parts of the invariant -/

/-- FAV and HRV are never both 1; DEV and DDV imply TRV (R16). -/
def legalFlags (f : BitVec 5) : Bool :=
  !(f.getLsbD 0 && f.getLsbD 4) && (!f.getLsbD 2 || f.getLsbD 1) && (!f.getLsbD 3 || f.getLsbD 1)

/-- ROOT, LEAFCNT and NCOUNT of a complete tree (R17, R21). -/
def TreeComplete (root : Option NodeIdx) (l : Word32) (n : BitVec 18) : Prop :=
  match root with
  | none => l = 0#32 ∧ n = 0#18
  | some r => r.toNat + 1 = n.toNat ∧ n.toNat + 1 = 2 * l.toNat

/-- The invariant, but for what it says of the token loop. -/
structure Legal (s : State) : Prop where
  status : statusLegal s = true
  flags : legalFlags s.flags = true
  header : s.hrv = true → HeaderAccepted s.total s.leafCnt
  counts : ftWf s
  codes : Table.rising symRank s.ct = true
  keys : Table.rising pathRank s.dt = true
  store : StoreLegal s
  tree : s.trv = true → TreeComplete s.root s.leafCnt s.nCount

theorem headerLegal_iff (s : State) : headerLegal s = true ↔ (s.hrv = true → HeaderAccepted s.total s.leafCnt) := by
  simp only [headerLegal, HeaderAccepted, Bool.or_eq_true, Bool.and_eq_true, Bool.not_eq_true', decide_eq_true_eq]
  rw [← Bool.not_eq_true, ← imp_iff_not_or, ← imp_iff_not_or]

theorem treeLegal_iff (s : State) : treeLegal s = true ↔ (s.trv = true → TreeComplete s.root s.leafCnt s.nCount) := by
  rw [treeLegal, Bool.or_eq_true, Bool.not_eq_true', ← Bool.not_eq_true, ← imp_iff_not_or]
  refine imp_congr_right fun _ => ?_
  cases s.root <;> simp [TreeComplete]

/-- The invariant is its parts. -/
theorem inv_iff (s : State) : s.inv = true ↔ Legal s ∧ loopLegal s = true := by
  simp only [State.inv, Bool.and_eq_true, memory_wf_iff, headerLegal_iff, treeLegal_iff]
  constructor
  · rintro ⟨⟨⟨⟨⟨⟨⟨hstatus, hflags⟩, hheader⟩, hft, hnonzero, -, hct, hdt⟩, hnodes⟩, hchildren⟩, htree⟩, hloop⟩
    exact ⟨⟨hstatus, hflags, hheader, ⟨hft, hnonzero⟩, hct, hdt, ⟨hnodes, hchildren⟩, htree⟩, hloop⟩
  · rintro ⟨h, hloop⟩
    exact ⟨⟨⟨⟨⟨⟨⟨h.status, h.flags⟩, h.header⟩, h.counts.1, h.counts.2, h.store.rising, h.codes, h.keys⟩,
      h.store.nodes⟩, h.store.children⟩, h.tree⟩, hloop⟩

/-- An idle sequencer is in no token loop. -/
theorem loopLegal_of_idle {s : State} (h : s.phase = .idle) : loopLegal s = true := by rw [loopLegal, h]

theorem statusLegal_congr {s t : State} (hstatus : t.status = s.status) (herr : t.errOffset = s.errOffset) :
    statusLegal t = statusLegal s := by
  unfold statusLegal State.isError State.err
  rw [hstatus, herr]

theorem statusLegal_raise (k : ErrKind) (g : Opcode) (s : State) : statusLegal (raise k g s) = true := by
  have herr : (raise k g s).err = errCode k := (statusWord_fields k g).2.1
  rw [statusLegal, if_pos (raise_isError k g s), herr]
  cases k <;> decide

theorem ftWf_congr {s t : State} (h : t.ft = s.ft) : ftWf t ↔ ftWf s := by rw [ftWf, ftWf, h]

/-! ### Every walk of a legal tree ends -/

/-- The current tree of a legal state ends every walk of it. -/
theorem Legal.exists_walks {s : State} (h : Legal s) (htrv : s.trv = true) :
    (∃ ps, treePaths s = some ps) ∧ ∃ ts, treeTokens s = some ts := by
  cases hroot : s.root with
  | none => exact ⟨⟨[], by rw [treePaths, hroot]⟩, [], by rw [treeTokens, hroot]⟩
  | some r =>
    have hcomplete := h.tree htrv
    rw [hroot, TreeComplete] at hcomplete
    obtain ⟨T, hT, hlevels⟩ := h.store.exists_standsAt Config.walkDepth (i := r) r.isLt (by omega)
    refine ⟨?_, T.tokens, by rw [treeTokens, hroot]; exact serialize_of_standsAt T hT hlevels⟩
    simp only [treePaths, hroot]
    cases hread : readNode s r with
    | leaf sym w => exact ⟨_, rfl⟩
    | internal w a b => exact ⟨_, walk_of_standsAt T [] hT hlevels⟩

/-! ### What the flags claim (R15, R19) -/

/-- What DEV claims of CT. -/
def CodesMatch (s : State) : Prop := s.dev = true → ∃ ps, treePaths s = some ps ∧ s.ct = encodeTable ps

/-- What DDV claims of DT and MAXDEPTH. -/
def KeysMatch (s : State) : Prop :=
  s.ddv = true → ∃ ps, treePaths s = some ps ∧ s.dt = decodeTable ps ∧ s.maxDepth = BitVec.ofNat 17 (longestKey s.dt)

theorem dictionariesMatch_iff (s : State) : dictionariesMatch s = true ↔ CodesMatch s ∧ KeysMatch s := by
  have hct : ∀ ps, (fillCt ps { s with ct := [] }).ct = encodeTable ps := fun ps => fillCt_ct_congr ps rfl
  have hdt : ∀ ps, (fillDt ps { s with dt := [] }).dt = decodeTable ps := fun ps => fillDt_dt_congr ps rfl
  rw [dictionariesMatch, Bool.and_eq_true, Bool.or_eq_true, Bool.or_eq_true, Bool.not_eq_true', Bool.not_eq_true',
    ← Bool.not_eq_true, ← Bool.not_eq_true, ← imp_iff_not_or, ← imp_iff_not_or, CodesMatch, KeysMatch]
  cases treePaths s with
  | none => simp
  | some ps => simp [hct, hdt]

theorem countsMatch_iff (s : State) :
    countsMatch s = true ↔ (s.fav = true → 2 * ftSum s = s.total.toNat + s.total.toNat % 2) := by
  rw [countsMatch, Bool.or_eq_true, Bool.not_eq_true', ← Bool.not_eq_true, ← imp_iff_not_or, decide_eq_true_eq]
  rfl

section

variable {s t : State}

theorem CodesMatch.congr (h : CodesMatch s) (hdev : t.dev = s.dev) (hroot : t.root = s.root) (hnode : t.node = s.node)
    (hct : t.ct = s.ct) : CodesMatch t := by
  rw [CodesMatch, hdev, treePaths_congr hroot hnode, hct]
  exact h

theorem KeysMatch.congr (h : KeysMatch s) (hddv : t.ddv = s.ddv) (hroot : t.root = s.root) (hnode : t.node = s.node)
    (hdt : t.dt = s.dt) (hdepth : t.maxDepth = s.maxDepth) : KeysMatch t := by
  rw [KeysMatch, hddv, treePaths_congr hroot hnode, hdt, hdepth]
  exact h

/-- With both flags 0 nothing is claimed of the dictionaries. -/
theorem dictionariesMatch_of_cleared (hdev : t.dev = false) (hddv : t.ddv = false) : dictionariesMatch t = true :=
  (dictionariesMatch_iff t).2
    ⟨fun h => absurd (hdev.symm.trans h) (by decide), fun h => absurd (hddv.symm.trans h) (by decide)⟩

theorem countsMatch_of_cleared (hfav : t.fav = false) : countsMatch t = true :=
  (countsMatch_iff t).2 fun h => absurd (hfav.symm.trans h) (by decide)

theorem countsMatch_congr (hfav : t.fav = s.fav) (hft : t.ft = s.ft) (htotal : t.total = s.total) :
    countsMatch t = countsMatch s := by
  simp only [countsMatch, hfav, hft, htotal]

end

/-! ### What a piece of a command keeps -/

/-- `t` is legal again, no token loop has begun, and what the flags claim is as true as it was. -/
structure Keeps (s t : State) : Prop where
  legal : Legal t
  phase : t.phase = s.phase ∨ t.phase = .idle
  dictionaries : dictionariesMatch s = true → dictionariesMatch t = true
  counts : countsMatch s = true → countsMatch t = true

/-- `t` has the registers and tables of `s`, and stands where `s` stands. -/
def Aside (s t : State) : Prop :=
  t = { s with
    pq := t.pq, stack := t.stack, remL := t.remL, remI := t.remI, rem := t.rem, pathBuf := t.pathBuf
    inBytes := t.inBytes, outBits := t.outBits, inBits := t.inBits, outBytes := t.outBytes, ioAnswers := t.ioAnswers
    host := t.host, draws := t.draws }

section

variable {s t u : State}

theorem Keeps.refl (h : Legal s) : Keeps s s := ⟨h, .inl rfl, id, id⟩

theorem Keeps.trans (h : Keeps s t) (h' : Keeps t u) : Keeps s u := by
  refine ⟨h'.legal, ?_, h'.dictionaries ∘ h.dictionaries, h'.counts ∘ h.counts⟩
  rcases h'.phase with hphase | hphase
  · rw [hphase]
    exact h.phase
  · exact .inr hphase

/-- The claims are about the registers and tables alone. -/
theorem Keeps.aside (h : Keeps s t) (hu : Aside t u) : Keeps s u := by
  rw [Aside] at hu
  have hflags : u.flags = t.flags := by rw [hu]
  have hroot : u.root = t.root := by rw [hu]
  have hnode : u.node = t.node := by rw [hu]
  have hct : u.ct = t.ct := by rw [hu]
  have hft : u.ft = t.ft := by rw [hu]
  have hdt : u.dt = t.dt := by rw [hu]
  have hcount : u.nCount = t.nCount := by rw [hu]
  have hleaf : u.leafCnt = t.leafCnt := by rw [hu]
  have htotal : u.total = t.total := by rw [hu]
  refine ⟨?_, ?_, fun hs => ?_, fun hs => ?_⟩
  · obtain ⟨hstatus, hlegal, hheader, hcounts, hcodes, hkeys, hstore, htree⟩ := h.legal
    constructor
    case status => exact (statusLegal_congr (by rw [hu]) (by rw [hu])).trans hstatus
    case flags => rw [hflags, hlegal]
    case header => rw [State.hrv, hflags, htotal, hleaf]; exact hheader
    case counts => exact (ftWf_congr hft).2 hcounts
    case codes => rw [hct, hcodes]
    case keys => rw [hdt, hkeys]
    case store => exact hstore.congr hnode hcount
    case tree => rw [State.trv, hflags, hroot, hleaf, hcount]; exact htree
  · rw [show u.phase = t.phase by rw [hu]]
    exact h.phase
  · obtain ⟨hcodes, hkeys⟩ := (dictionariesMatch_iff t).1 (h.dictionaries hs)
    exact (dictionariesMatch_iff u).2 ⟨hcodes.congr (congrArg (BitVec.getLsbD · 2) hflags) hroot hnode hct,
      hkeys.congr (congrArg (BitVec.getLsbD · 3) hflags) hroot hnode hdt (by rw [hu])⟩
  · rw [countsMatch_congr (congrArg (BitVec.getLsbD · 0) hflags) hft htotal]
    exact h.counts hs

/-- Fault entry writes STATUS and ERR_OFFSET in their legal form, and ends the command. -/
theorem Keeps.raise (h : Keeps s t) (k : ErrKind) (g : Opcode) : Keeps s (raise k g t) := by
  obtain ⟨⟨-, hflags, hheader, hcounts, hcodes, hkeys, hstore, htree⟩, -, hdict, hcount⟩ := h
  refine ⟨⟨statusLegal_raise k g t, hflags, hheader, (ftWf_congr rfl).2 hcounts, hcodes, hkeys, hstore.congr rfl rfl,
    htree⟩, .inr rfl, fun hs => ?_, fun hs => ?_⟩
  · obtain ⟨hc, hk⟩ := (dictionariesMatch_iff t).1 (hdict hs)
    exact (dictionariesMatch_iff _).2 ⟨hc.congr rfl rfl rfl rfl, hk.congr rfl rfl rfl rfl rfl⟩
  · exact (countsMatch_congr (t := Machine.raise k g t) rfl rfl rfl).trans (hcount hs)

theorem Keeps.of_raised {faults : List (ErrKind × Opcode)} {R : State → Prop} (h : Raised faults R t)
    (hR : ∀ u, R u → Keeps s u) : Keeps s t := by
  obtain ⟨e, -, u, hu, rfl⟩ := h
  exact (hR u hu).raise e.1 e.2

end

/-- However the piece ends, it keeps the claims, and the model does not stop. -/
def Flow.KeepsFrom {α : Type} (s : State) (m : Flow α) : Prop := m.Ends (fun _ => Keeps s) (Keeps s) False

section

variable {α β : Type} {s : State} {m : Flow α}

theorem Flow.KeepsFrom.bind {f : α → State → Flow β} (h : m.KeepsFrom s) (hf : ∀ a t, Legal t → (f a t).KeepsFrom t) :
    (m.bind f).KeepsFrom s :=
  Flow.Ends.bind h fun a t ht =>
    (hf a t ht.legal).imp (fun _ _ hu => ht.trans hu) (fun _ hu => ht.trans hu) id

/-- A command that begins with `require` is over at once where the condition does not hold. -/
theorem keepsFrom_of_require {c : Bool} {g : Opcode} {f : Unit → State → Flow β} (h : Legal s)
    (hrun : c = true → ((require c g s).bind f).KeepsFrom s) : ((require c g s).bind f).KeepsFrom s := by
  cases hc : c with
  | false =>
    rw [require_of_false rfl, bind_ended]
    exact (Keeps.refl h).raise _ _
  | true => exact hc ▸ hrun hc

end

end Sys2Proof.Machine
end

section
/-! SUPPORT. Every command keeps the invariant and what the flags claim (spec/10_state.md R15 to R21), and never stops
on a legal state; COMPRESS and DECOMPRESS by their stages. -/

namespace Sys2Proof.Machine

open Sys2Proof

/-! ### The stages that write registers and tables -/

section

variable {s t : State}

/-- With every flag 0 only the form of the registers and tables is left to claim. -/
theorem Keeps.of_no_flag (hflags : t.flags = 0#5) (hphase : t.phase = s.phase ∨ t.phase = .idle)
    (hstatus : statusLegal t = true) (hcounts : ftWf t) (hcodes : Table.rising symRank t.ct = true)
    (hkeys : Table.rising pathRank t.dt = true) (hstore : StoreLegal t) : Keeps s t := by
  obtain ⟨hlegal, hhrv, htrv, hdev, hddv, hfav⟩ : legalFlags t.flags = true ∧ t.hrv = false ∧ t.trv = false ∧
      t.dev = false ∧ t.ddv = false ∧ t.fav = false := by
    simp only [State.hrv, State.trv, State.dev, State.ddv, State.fav, hflags]
    decide
  exact ⟨⟨hstatus, hlegal, fun h => absurd (hhrv.symm.trans h) (by decide), hcounts, hcodes, hkeys, hstore,
    fun h => absurd (htrv.symm.trans h) (by decide)⟩, hphase, fun _ => dictionariesMatch_of_cleared hdev hddv,
    fun _ => countsMatch_of_cleared hfav⟩

theorem keeps_clearCore (s : State) : Keeps s (clearCore s) :=
  .of_no_flag rfl (.inl rfl) ((statusLegal_congr (s := State.reset) rfl rfl).trans (by decide))
    ⟨rfl, fun _ he => nomatch he⟩ rfl rfl ((storeLegal_dropNodes s).congr rfl rfl)

theorem keeps_hardReset (s : State) : Keeps s (hardReset s) :=
  .of_no_flag rfl (.inr rfl) ((statusLegal_congr (s := State.reset) rfl rfl).trans (by decide))
    ⟨rfl, fun _ he => nomatch he⟩ rfl rfl ((storeLegal_dropNodes s).congr rfl rfl)

theorem ftWf_writeFt (sym : Symbol) (count : Word32) (h : ftWf s) : ftWf (writeFt sym count s) := by
  have hwf : Memory.wf { State.reset with ft := s.ft } = true := (memory_wf_iff _).2 ⟨h.1, h.2, rfl, rfl, rfl⟩
  obtain ⟨hrising, hnonzero, -⟩ := (memory_wf_iff _).1 (writeFt_memory_wf sym count hwf)
  exact ⟨hrising, hnonzero⟩

theorem keeps_ftWrite (sym : Symbol) (count : Word32) (h : Legal s) :
    Keeps s (writeFt sym count { s with flags := 0#5 }) :=
  .of_no_flag rfl (.inl rfl) ((statusLegal_congr (s := s) rfl rfl).trans h.status)
    (ftWf_writeFt sym count ((ftWf_congr (s := s) (t := { s with flags := 0#5 }) rfl).2 h.counts)) h.codes h.keys
    (h.store.congr rfl rfl)

/-- ANALYZE leaves no flag, or FAV alone with its claim. -/
theorem AnalyzeKept.keeps (ht : AnalyzeKept s t) (h : Legal s)
    (hflags : t.flags = 0#5 ∨ t.flags = favMask ∧ 2 * ftSum t = t.total.toNat + t.total.toNat % 2) : Keeps s t := by
  have hframe := ht.frame
  obtain ⟨hlegal, hhrv, htrv, hdev, hddv⟩ :
      legalFlags t.flags = true ∧ t.hrv = false ∧ t.trv = false ∧ t.dev = false ∧ t.ddv = false := by
    simp only [State.hrv, State.trv, State.dev, State.ddv]
    rcases hflags with h | ⟨h, -⟩ <;> rw [h] <;> decide
  refine ⟨?_, .inl (by rw [hframe]), fun _ => dictionariesMatch_of_cleared hdev hddv, fun _ => ?_⟩
  · constructor
    case status => exact (statusLegal_congr (by rw [hframe]) (by rw [hframe])).trans h.status
    case flags => exact hlegal
    case header => exact fun h => absurd (hhrv.symm.trans h) (by decide)
    case counts => exact ht.canonical
    case codes => rw [show t.ct = s.ct by rw [hframe]]; exact h.codes
    case keys => rw [show t.dt = s.dt by rw [hframe]]; exact h.keys
    case store => exact h.store.congr (by rw [hframe]) (by rw [hframe])
    case tree => exact fun h => absurd (htrv.symm.trans h) (by decide)
  · rcases hflags with h | ⟨-, h⟩
    · exact countsMatch_of_cleared (by rw [State.fav, h]; rfl)
    · exact (countsMatch_iff t).2 fun _ => h

theorem BuildKept.keeps (ht : BuildKept s t) (h : Legal s) (hstore : StoreLegal t)
    (htree : TreeComplete t.root t.leafCnt t.nCount) : Keeps s t := by
  rw [BuildKept] at ht
  have hflags : t.flags = (s.flags &&& 0b00001#5) ||| 0b00010#5 := by rw [ht]
  have hft : t.ft = s.ft := by rw [ht]
  obtain ⟨hlegal, hhrv, hdev, hddv, hfav⟩ :
      legalFlags t.flags = true ∧ t.hrv = false ∧ t.dev = false ∧ t.ddv = false ∧ t.fav = s.fav := by
    simp only [State.hrv, State.dev, State.ddv, State.fav, hflags]
    generalize s.flags = f
    revert f
    decide
  refine ⟨?_, .inl (by rw [ht]), fun _ => dictionariesMatch_of_cleared hdev hddv, fun hs => ?_⟩
  · constructor
    case status => exact (statusLegal_congr (by rw [ht]) (by rw [ht])).trans h.status
    case flags => exact hlegal
    case header => exact fun h => absurd (hhrv.symm.trans h) (by decide)
    case counts => exact (ftWf_congr hft).2 h.counts
    case codes => rw [show t.ct = s.ct by rw [ht]]; exact h.codes
    case keys => rw [show t.dt = s.dt by rw [ht]]; exact h.keys
    case store => exact hstore
    case tree => exact fun _ => htree
  · exact (countsMatch_congr hfav hft (by rw [ht])).trans hs

theorem rising_encodeTable (ps : List (Symbol × Bits)) : Table.rising symRank (encodeTable ps) = true := by
  suffices h : ∀ u, Memory.wf u = true → Memory.wf (fillCt ps u) = true from
    ((memory_wf_iff _).1 (h State.reset rfl)).2.2.2.1
  induction ps with
  | nil => exact fun _ h => h
  | cons e ps ih => exact fun u h => ih _ (writeCt_memory_wf e.1 e.2 h)

theorem rising_decodeTable (ps : List (Symbol × Bits)) : Table.rising pathRank (decodeTable ps) = true := by
  suffices h : ∀ u, Memory.wf u = true → Memory.wf (fillDt ps u) = true from
    ((memory_wf_iff _).1 (h State.reset rfl)).2.2.2.2
  induction ps with
  | nil => exact fun _ h => h
  | cons e ps ih => exact fun u h => ih _ (writeDt_memory_wf e.2 e.1 h)

theorem keeps_encoded {ps : List (Symbol × Bits)} (h : Legal s) (htrv : s.trv = true) (hps : treePaths s = some ps) :
    Keeps s (encoded ps s) := by
  obtain ⟨hlegal, hsame⟩ : (legalFlags s.flags = true → s.trv = true → legalFlags (encoded ps s).flags = true) ∧
      (encoded ps s).hrv = s.hrv ∧ (encoded ps s).trv = s.trv ∧ (encoded ps s).ddv = s.ddv ∧
        (encoded ps s).fav = s.fav := by
    simp only [State.hrv, State.trv, State.ddv, State.fav, encoded]
    generalize s.flags = f
    revert f
    decide
  obtain ⟨hhrv, htrv', hddv, hfav⟩ := hsame
  refine ⟨?_, .inl rfl, fun hs => ?_, fun hs => (countsMatch_congr (s := s) (t := encoded ps s) hfav rfl rfl).trans hs⟩
  · constructor
    case status => exact (statusLegal_congr (s := s) rfl rfl).trans h.status
    case flags => exact hlegal h.flags htrv
    case header => rw [hhrv]; exact h.header
    case counts => exact (ftWf_congr rfl).2 h.counts
    case codes => exact rising_encodeTable ps
    case keys => exact h.keys
    case store => exact h.store.congr rfl rfl
    case tree => rw [htrv']; exact h.tree
  · have hpaths : treePaths (encoded ps s) = some ps := (treePaths_congr (s := s) (t := encoded ps s) rfl rfl).trans hps
    exact (dictionariesMatch_iff _).2
      ⟨fun _ => ⟨ps, hpaths, rfl⟩, ((dictionariesMatch_iff s).1 hs).2.congr hddv rfl rfl rfl rfl⟩

theorem keeps_decoded {ps : List (Symbol × Bits)} (h : Legal s) (htrv : s.trv = true) (hps : treePaths s = some ps) :
    Keeps s (decoded ps s) := by
  obtain ⟨hlegal, hsame⟩ : (legalFlags s.flags = true → s.trv = true → legalFlags (decoded ps s).flags = true) ∧
      (decoded ps s).hrv = s.hrv ∧ (decoded ps s).trv = s.trv ∧ (decoded ps s).dev = s.dev ∧
        (decoded ps s).fav = s.fav := by
    simp only [State.hrv, State.trv, State.dev, State.fav, decoded]
    generalize s.flags = f
    revert f
    decide
  obtain ⟨hhrv, htrv', hdev, hfav⟩ := hsame
  refine ⟨?_, .inl rfl, fun hs => ?_, fun hs => (countsMatch_congr (s := s) (t := decoded ps s) hfav rfl rfl).trans hs⟩
  · constructor
    case status => exact (statusLegal_congr (s := s) rfl rfl).trans h.status
    case flags => exact hlegal h.flags htrv
    case header => rw [hhrv]; exact h.header
    case counts => exact (ftWf_congr rfl).2 h.counts
    case codes => exact h.codes
    case keys => exact rising_decodeTable ps
    case store => exact h.store.congr rfl rfl
    case tree => rw [htrv']; exact h.tree
  · have hpaths : treePaths (decoded ps s) = some ps := (treePaths_congr (s := s) (t := decoded ps s) rfl rfl).trans hps
    exact (dictionariesMatch_iff _).2
      ⟨((dictionariesMatch_iff s).1 hs).1.congr hdev rfl rfl rfl, fun _ => ⟨ps, hpaths, rfl, rfl⟩⟩

/-- HDR_RD leaves no flag, or HRV alone with a header that it accepts. -/
theorem HdrRdKept.keeps {f : BitVec 5} (ht : HdrRdKept s f t) (h : Legal s)
    (hf : f = 0#5 ∨ f = hrvMask ∧ HeaderAccepted t.total t.leafCnt) : Keeps s t := by
  have hframe := ht.frame
  obtain ⟨hlegal, htrv, hdev, hddv, hfav⟩ :
      legalFlags t.flags = true ∧ t.trv = false ∧ t.dev = false ∧ t.ddv = false ∧ t.fav = false := by
    simp only [State.trv, State.dev, State.ddv, State.fav, show t.flags = f by rw [hframe]]
    rcases hf with h | ⟨h, -⟩ <;> rw [h] <;> decide
  refine ⟨?_, .inl (by rw [hframe]), fun _ => dictionariesMatch_of_cleared hdev hddv,
    fun _ => countsMatch_of_cleared hfav⟩
  constructor
  case status => exact (statusLegal_congr (by rw [hframe]) (by rw [hframe])).trans h.status
  case flags => exact hlegal
  case header =>
    rcases hf with rfl | ⟨-, haccepted⟩
    · rw [State.hrv, show t.flags = 0#5 by rw [hframe]]
      exact fun h => absurd h (by decide)
    · exact fun _ => haccepted
  case counts => exact (ftWf_congr (by rw [hframe])).2 h.counts
  case codes => rw [show t.ct = s.ct by rw [hframe]]; exact h.codes
  case keys => rw [show t.dt = s.dt by rw [hframe]]; exact h.keys
  case store => exact h.store.congr (by rw [hframe]) (by rw [hframe])
  case tree => exact fun h => absurd (htrv.symm.trans h) (by decide)

/-- TREE_RD leaves FAV and HRV, and TRV only with a complete tree. -/
theorem TreeRdKept.keeps {m : BitVec 5} (ht : TreeRdKept s (treeRdFlags s ||| m) t) (h : Legal s)
    (hstore : StoreLegal t) (hm : m = 0#5 ∨ m = trvMask ∧ TreeComplete t.root s.leafCnt t.nCount) : Keeps s t := by
  have hframe := ht.frame
  have hflags : t.flags = s.flags &&& 0b10001#5 ||| m := by rw [hframe]; rfl
  have hft : t.ft = s.ft := by rw [hframe]
  have htotal : t.total = s.total := by rw [hframe]
  have hleaf : t.leafCnt = s.leafCnt := by rw [hframe]
  obtain ⟨hlegal, hhrv, hdev, hddv, hfav⟩ : (legalFlags s.flags = true → legalFlags t.flags = true) ∧ t.hrv = s.hrv ∧
      t.dev = false ∧ t.ddv = false ∧ t.fav = s.fav := by
    have hm' : m = 0#5 ∨ m = trvMask := hm.imp_right And.left
    simp only [State.hrv, State.dev, State.ddv, State.fav, hflags]
    clear ht hm hframe hflags
    generalize s.flags = f
    revert f m
    decide
  refine ⟨?_, ht.phase, fun _ => dictionariesMatch_of_cleared hdev hddv,
    fun hs => (countsMatch_congr hfav hft htotal).trans hs⟩
  constructor
  case status => exact (statusLegal_congr (by rw [hframe]) (by rw [hframe])).trans h.status
  case flags => exact hlegal h.flags
  case header => rw [hhrv, htotal, hleaf]; exact h.header
  case counts => exact (ftWf_congr hft).2 h.counts
  case codes => rw [show t.ct = s.ct by rw [hframe]]; exact h.codes
  case keys => rw [show t.dt = s.dt by rw [hframe]]; exact h.keys
  case store => exact hstore
  case tree =>
    rcases hm with rfl | ⟨-, hcomplete⟩
    · rw [State.trv, hflags]
      exact fun h => by simp at h
    · rw [hleaf]
      exact fun _ => hcomplete

/-! ### The stages that move streams and working state alone -/

theorem Wrote.aside (h : Wrote s t) : Aside s t := by
  rw [Aside, h.1]

theorem EncBodyKept.aside {p : Nat} (h : EncBodyKept s p t) : Aside s t := by
  rw [Aside, h.frame]

theorem DecBodyKept.aside (h : DecBodyKept s t) : Aside s t := by
  rw [Aside, h.frame]

theorem aside_releaseStack (s : State) : Aside s (releaseStack s) := rfl

theorem aside_releasePath (s : State) : Aside s (releasePath s) := rfl

theorem aside_padOut (k : Nat) (s : State) : Aside s (padOut (bytesRead 0 k s)) := rfl

theorem aside_bytesRead (m k : Nat) (s : State) : Aside s (bytesRead m k s) := rfl

theorem aside_bitsRead (m k : Nat) (s : State) : Aside s (bitsRead m k s) := rfl

end

/-! ### Every command (R134, R144) -/

section

variable {s : State}

theorem keepsFrom_clearUnit (s : State) : (clearUnit s).KeepsFrom s := keeps_clearCore s

theorem Legal.keepsFrom_analyzeUnit (h : Legal s) : (analyzeUnit s).KeepsFrom s := by
  refine (analyzeUnit_ends s).imp (fun _ t ht => ht.toAnalyzeKept.keeps h (.inr ⟨ht.flags, ht.sum⟩)) ?_ id
  rintro t (ht | ht)
  · exact .of_raised ht fun u hu => hu.1.keeps h (.inl hu.2)
  · exact .of_raised ht fun u hu => hu.1.1.keeps h (.inl hu.1.2)

theorem Legal.keepsFrom_buildUnit (h : Legal s) : (buildUnit s).KeepsFrom s := by
  obtain ⟨t, o, hrun, -⟩ := buildUnit_of_ftWf h.counts
  have hkept := (buildUnit_ends s).of_ok hrun
  rw [hrun]
  by_cases hft : s.ft = []
  · obtain ⟨t', hexec, ht'⟩ := buildOfAtMostOneEntryMergesNothing.1 s hft
    rw [exec_build, hrun, outcome_ok] at hexec
    cases hexec
    refine hkept.keeps h ((storeLegal_dropNodes s).congr (by rw [ht']; rfl) (by rw [ht']; rfl)) ?_
    rw [ht']
    exact ⟨rfl, rfl⟩
  · have hbuilt := (buildUnit_ends_built h.counts hft).of_ok hrun
    obtain ⟨r, hroot, hr, -⟩ := hbuilt.root
    refine hkept.keeps h hbuilt.store ?_
    rw [hroot]
    exact ⟨hr, hbuilt.leafCnt ▸ hbuilt.nCount⟩

theorem Legal.keepsFrom_dictEncUnit (h : Legal s) : (dictEncUnit s).KeepsFrom s := by
  rcases dictEncUnit_cases s with ⟨-, hrun⟩ | ⟨htrv, ps, hps, hrun⟩ | ⟨htrv, hnone, -⟩
  · exact hrun ▸ (Keeps.refl h).raise _ _
  · exact hrun ▸ keeps_encoded h htrv hps
  · obtain ⟨⟨ps, hps⟩, -⟩ := h.exists_walks htrv
    exact absurd (hnone.symm.trans hps) (by simp)

theorem Legal.keepsFrom_dictDecUnit (h : Legal s) : (dictDecUnit s).KeepsFrom s := by
  rcases dictDecUnit_cases s with ⟨-, hrun⟩ | ⟨htrv, ps, hps, hrun⟩ | ⟨htrv, hnone, -⟩
  · exact hrun ▸ (Keeps.refl h).raise _ _
  · exact hrun ▸ keeps_decoded h htrv hps
  · obtain ⟨⟨ps, hps⟩, -⟩ := h.exists_walks htrv
    exact absurd (hnone.symm.trans hps) (by simp)

theorem Legal.keepsFrom_hdrWrUnit (h : Legal s) : (hdrWrUnit s).KeepsFrom s :=
  keepsFrom_of_require h fun hc => (hdrWrUnit_ends hc).imp (fun _ _ ht => (Keeps.refl h).aside ht.aside)
    (fun _ ht => .of_raised ht fun _ hu => (Keeps.refl h).aside hu.aside) id

theorem Legal.keepsFrom_treeWrUnit (h : Legal s) : (treeWrUnit s).KeepsFrom s :=
  keepsFrom_of_require h fun hc => (treeWrUnit_ends hc).imp (fun _ _ ht => (Keeps.refl h).aside ht.aside)
    (fun _ ht => .of_raised ht fun _ hu => (Keeps.refl h).aside hu.aside) fun hnone => by
      obtain ⟨-, ts, hts⟩ := h.exists_walks hc
      exact absurd (hnone.symm.trans hts) (by simp)

theorem Legal.keepsFrom_encBodyUnit (h : Legal s) : (encBodyUnit s).KeepsFrom s :=
  keepsFrom_of_require h fun hc => (encBodyUnit_ends hc).imp (fun _ _ ⟨_, ht⟩ => (Keeps.refl h).aside ht.aside)
    (fun _ ht => .of_raised ht fun _ ⟨_, hu⟩ => (Keeps.refl h).aside hu.aside) id

theorem Legal.keepsFrom_closeOut (h : Legal s) (g : Opcode) : (closeOut g s).KeepsFrom s :=
  closeOut_ends ((Keeps.refl h).aside (aside_padOut 1 s)) fun _ =>
    ((Keeps.refl h).aside (aside_bytesRead 0 1 s)).raise _ _

theorem Legal.keepsFrom_hdrRdUnit (h : Legal s) : (hdrRdUnit s).KeepsFrom s :=
  (hdrRdUnit_ends s).imp (fun _ _ ⟨ht, haccepted, _⟩ => ht.keeps h (.inr ⟨rfl, haccepted⟩))
    (fun _ ht => .of_raised ht fun _ hu => hu.keeps h (.inl rfl)) id

/-- The tree TREE_RD leaves is complete. -/
theorem Rebuilt.treeComplete {t : State} (h : Rebuilt s t) : TreeComplete t.root s.leafCnt t.nCount := by
  rcases h with ⟨hleaf, hroot, hcount⟩ | ⟨r, hroot, hr, hcount, -⟩ <;> rw [hroot]
  · exact ⟨hleaf, hcount⟩
  · exact ⟨hr, hcount⟩

theorem Legal.keepsFrom_treeRdUnit (h : Legal s) : (treeRdUnit s).KeepsFrom s := by
  refine keepsFrom_of_require h fun hhrv => ?_
  refine ((treeRdUnit_ends hhrv).and (treeRdUnit_ends_rebuilt hhrv (h.header hhrv).1)).imp ?_ ?_ And.right
  · rintro - t ⟨ht, hstore, hbuilt⟩
    exact ht.keeps h hstore (.inr ⟨rfl, hbuilt.treeComplete⟩)
  · rintro t ⟨⟨-, ⟨e, -, u, hu, rfl⟩, rfl⟩, hstore⟩
    have hkept : TreeRdKept s (treeRdFlags s ||| 0#5) u := by rw [BitVec.or_zero]; exact hu
    exact ((hkept.keeps h (hstore.congr rfl rfl) (.inl rfl)).raise _ _).aside (aside_releaseStack _)

theorem Legal.keepsFrom_decBodyUnit (h : Legal s) : (decBodyUnit s).KeepsFrom s :=
  keepsFrom_of_require h fun hc => (decBodyUnit_ends hc).imp (fun _ _ ht => (Keeps.refl h).aside ht.aside)
    (fun _ ⟨_, hr, ht⟩ => ht ▸ (Keeps.of_raised hr fun _ hu => (Keeps.refl h).aside hu.aside).aside
      (aside_releasePath _)) id

theorem keepsFrom_compressUnit (s : State) : (compressUnit s).KeepsFrom s :=
  (keepsFrom_clearUnit s).bind fun _ _ h => h.keepsFrom_analyzeUnit.bind fun _ _ h => h.keepsFrom_buildUnit.bind
    fun _ _ h => h.keepsFrom_dictEncUnit.bind fun _ _ h => h.keepsFrom_hdrWrUnit.bind fun _ _ h =>
      h.keepsFrom_treeWrUnit.bind fun _ _ h => h.keepsFrom_encBodyUnit.bind fun _ _ h => h.keepsFrom_closeOut _

theorem keepsFrom_decompressUnit (s : State) : (decompressUnit s).KeepsFrom s :=
  (keepsFrom_clearUnit s).bind fun _ _ h => h.keepsFrom_hdrRdUnit.bind fun _ _ h => h.keepsFrom_treeRdUnit.bind
    fun _ _ h => h.keepsFrom_dictDecUnit.bind fun _ _ h => h.keepsFrom_decBodyUnit

theorem Flow.KeepsFrom.exists_next {m : Flow Unit} (h : m.KeepsFrom s) : ∃ t, m.outcome = .next t ∧ Keeps s t := by
  obtain ⟨t, ht, hkeeps | hkeeps⟩ := Flow.Ends.exists_next h
  · exact ⟨t, ht, hkeeps⟩
  · exact ⟨t, ht, hkeeps⟩

/-- Every command of a legal state answers a next state, which keeps the claims. -/
theorem Legal.exec_keeps (h : Legal s) {i : Instr} (hi : i.isToken = false) : ∃ t, exec i s = .next t ∧ Keeps s t := by
  cases i with
  | clear => exact (keepsFrom_clearUnit s).exists_next
  | ftWrite sym count => exact ⟨_, exec_ftWrite sym count s, keeps_ftWrite sym count h⟩
  | analyze => exact h.keepsFrom_analyzeUnit.exists_next
  | build => exact h.keepsFrom_buildUnit.exists_next
  | dictEnc => exact h.keepsFrom_dictEncUnit.exists_next
  | hdrWr => exact h.keepsFrom_hdrWrUnit.exists_next
  | treeWr => exact h.keepsFrom_treeWrUnit.exists_next
  | encBody => exact h.keepsFrom_encBodyUnit.exists_next
  | compress => exact (keepsFrom_compressUnit s).exists_next
  | hdrRd => exact h.keepsFrom_hdrRdUnit.exists_next
  | treeRd => exact h.keepsFrom_treeRdUnit.exists_next
  | dictDec => exact h.keepsFrom_dictDecUnit.exists_next
  | decBody => exact h.keepsFrom_decBodyUnit.exists_next
  | decompress => exact (keepsFrom_decompressUnit s).exists_next
  | tLeaf sym => cases hi
  | tMerge => cases hi

end

end Sys2Proof.Machine
end

section
/-! SUPPORT. Every step keeps the invariant and what the flags claim, and none stops (spec/10_state.md R13 to R24,
spec/43_tree_serializer.md R121, R124): the host's events, and the token loop one token at a time. -/

namespace Sys2Proof.Machine

open Sys2Proof

/-- What the claims say of a step: it answers a next state that is legal again, in the token loop or out of it. -/
def StepKeeps (s : State) : Prop := ∃ t, step s = .next t ∧ Keeps s t ∧ loopLegal t = true

/-! ### The host's events (R150, R185, R186) -/

section

variable {s : State}

/-- A word that decodes is a command's: no token comes from the host (30_encoding.md R60). -/
theorem isToken_of_decode {w : CmdWord} {i : Instr} (h : decode (.command w) = .ok i) : i.isToken = false := by
  have hcode : encode i = .command w := encode_of_decodeCommand h
  cases i with
  | tLeaf sym => cases hcode
  | tMerge => cases hcode
  | _ => rfl

/-- The next state of what the step has fetched. -/
def Fetched.outcome : Fetched → Host.Outcome State Fault Refusal
  | .run i s => exec i s
  | .settled s => .next s
  | .stop e => .fault e

theorem step_eq_outcome (s : State) : step s = (fetchNext s).outcome := by
  rw [step]
  cases fetchNext s <;> rfl

theorem Legal.dispatchWord_keeps (h : Legal s) (w : CmdWord) :
    ∃ t, (dispatchWord w s).outcome = .next t ∧ Keeps s t := by
  rw [dispatchWord]
  split
  · exact ⟨s, rfl, .refl h⟩
  · split
    · exact ⟨_, rfl, (Keeps.refl h).raise _ _⟩
    · next i hdecode => exact h.exec_keeps (isToken_of_decode hdecode)

theorem Legal.hostEvent_keeps (h : Legal s) (e : HostEvent) : ∃ t, (hostEvent e s).outcome = .next t ∧ Keeps s t := by
  cases e with
  | command w => exact h.dispatchWord_keeps w
  | reset => exact ⟨_, rfl, keeps_hardReset s⟩
  | presentBytes passes => exact ⟨_, rfl, (Keeps.refl h).aside rfl⟩
  | presentBits bits => exact ⟨_, rfl, (Keeps.refl h).aside rfl⟩
  | openOutBits => exact ⟨_, rfl, (Keeps.refl h).aside rfl⟩
  | openOutBytes => exact ⟨_, rfl, (Keeps.refl h).aside rfl⟩
  | closeOutBits => exact ⟨_, rfl, (Keeps.refl h).aside (aside_padOut 0 s)⟩

theorem Legal.stepKeeps_of_idle (h : Legal s) (hphase : s.phase = .idle) : StepKeeps s := by
  suffices hnext : ∃ t, step s = .next t ∧ Keeps s t by
    obtain ⟨t, hstep, hkeeps⟩ := hnext
    exact ⟨t, hstep, hkeeps, loopLegal_of_idle (hkeeps.phase.elim (fun e => e.trans hphase) id)⟩
  cases hhost : s.host with
  | nil => exact ⟨s, step_of_fetchNext_settled (by simp [fetchNext, hphase, hhost]), .refl h⟩
  | cons e rest =>
    have htaken : Keeps s { s with host := rest } := (Keeps.refl h).aside rfl
    obtain ⟨t, ht, hkeeps⟩ := htaken.legal.hostEvent_keeps e
    exact ⟨t, by rw [step_eq_outcome, fetchNext_of_idle hphase hhost, ht], htaken.trans hkeeps⟩

end

/-! ### The token loop (R121, R124) -/

section

variable {s : State}

/-- What the invariant says of a state in the token loop. -/
structure InLoop (s : State) : Prop extends Looping s where
  ready : s.isError = false
  hrv : s.hrv = true
  trv : s.trv = false

theorem inLoop_of_loopLegal (h : Legal s) (hphase : s.phase = .treeLoop) (hloop : loopLegal s = true) : InLoop s := by
  simp only [loopLegal, hphase, Bool.and_eq_true, Bool.not_eq_true', decide_eq_true_eq, List.all_eq_true] at hloop
  obtain ⟨⟨⟨⟨⟨⟨hready, hhrv⟩, htrv⟩, hstack⟩, hcount⟩, hinUse⟩, hnewest⟩ := hloop
  refine ⟨⟨h.store, hstack, hcount, hinUse, fun i hi => ?_, (h.header hhrv).1⟩, hready, hhrv, htrv⟩
  obtain ⟨below, hs⟩ := List.head?_eq_some_iff.1 hi
  simpa [hs] using hnewest

theorem loopLegal_of_inLoop (h : InLoop s) : loopLegal s = true := by
  rw [loopLegal]
  split
  · rfl
  · simp only [Bool.and_eq_true, Bool.not_eq_true', decide_eq_true_eq, List.all_eq_true]
    refine ⟨⟨⟨⟨⟨⟨h.ready, h.hrv⟩, h.trv⟩, h.stack⟩, h.count⟩, h.inUse⟩, ?_⟩
    split
    · rfl
    · next i below hs => exact decide_eq_true (h.newest i (by rw [hs]; rfl))

/-- Inside the loop no flag of a tree is set, so the loop leaves the flags. -/
theorem InLoop.treeRdFlags_eq (h : InLoop s) (hflags : legalFlags s.flags = true) : treeRdFlags s = s.flags := by
  have htrv := h.trv
  rw [State.trv] at htrv
  rw [treeRdFlags]
  generalize s.flags = f at htrv hflags ⊢
  revert f
  decide

theorem InLoop.treeRdKept (h : InLoop s) (hflags : legalFlags s.flags = true) : TreeRdKept s (treeRdFlags s) s :=
  ⟨by rw [h.treeRdFlags_eq hflags], List.suffix_rfl, .inl rfl⟩

/-- A token keeps the claims and the loop. -/
theorem InLoop.tokenStep (h : InLoop s) (hlegal : Legal s) {t : State} (ht : TokenStep s t) :
    Keeps s t ∧ loopLegal t = true := by
  have hkept := (h.treeRdKept hlegal.flags).tokenStep ht
  have hloop := h.toLooping.tokenStep ht
  have hflags : t.flags = s.flags := by rw [hkept.frame, h.treeRdFlags_eq hlegal.flags]
  have hstatus : t.status = s.status := by rw [hkept.frame]
  refine ⟨?_, loopLegal_of_inLoop ⟨hloop, ?_, ?_, ?_⟩⟩
  · rw [← BitVec.or_zero (x := treeRdFlags s)] at hkept
    exact hkept.keeps hlegal hloop.store (.inl rfl)
  · rw [State.isError, hstatus]; exact h.ready
  · rw [State.hrv, hflags]; exact h.hrv
  · rw [State.trv, hflags]; exact h.trv

/-- The end of the loop makes the last node of the stack the root. -/
theorem InLoop.finish_keeps (h : InLoop s) (hlegal : Legal s) {r : NodeIdx} (hr : r.toNat + 1 = s.nCount.toNat)
    (hcount : s.nCount.toNat + 1 = 2 * s.leafCnt.toNat) :
    Keeps s (releaseStack (setFlags trvMask { s with stack := [], root := some r, phase := .idle })) := by
  have hkept : TreeRdKept s (treeRdFlags s) { s with stack := [], root := some r, phase := .idle } := by
    refine ⟨?_, List.suffix_rfl, .inr rfl⟩
    rw [h.treeRdFlags_eq hlegal.flags]
  exact (hkept.releaseStack_setFlags trvMask).keeps hlegal (h.store.congr rfl rfl) (.inr ⟨rfl, hr, hcount⟩)

/-- With a counter positive a step reads and performs one token. -/
theorem step_of_counter (hphase : s.phase = .treeLoop) (hcount : ¬ (s.remL = 0#17 ∧ s.remI = 0#17)) :
    step s = tokenOutcome ((readToken s).bind fun t s => performToken t s) := by
  rw [step_eq_outcome, fetchNext_of_treeLoop hphase, fetchToken, if_neg hcount]
  cases hread : readToken s with
  | ok t u => cases t <;> rfl
  | ended u => rfl
  | stop e => rfl

theorem InLoop.stepKeeps (h : InLoop s) (hlegal : Legal s) (hphase : s.phase = .treeLoop) : StepKeeps s := by
  by_cases hdone : s.remL = 0#17 ∧ s.remI = 0#17
  · obtain ⟨r, hstack, hr, hcount⟩ := h.toLooping.exists_stack_eq hdone.1 hdone.2
    refine ⟨_, ?_, h.finish_keeps hlegal hr hcount, loopLegal_of_idle rfl⟩
    rw [step_eq_outcome, fetchNext_of_treeLoop hphase, fetchToken, if_pos hdone, treeRdFinish_of_singleton hstack]
    rfl
  · have htoken := token_ends (faults := [(.ioError, 0xA#4), (.corruptStream, 0xA#4)]) (R := Keeps s) (S := False)
      (s := s)
      (fun m k => (Keeps.refl hlegal).aside (aside_bitsRead m k s)) (by simp) (fun _ => by simp)
      fun hfull => absurd (h.toLooping.room (not_and_or.1 hdone)) (Nat.not_lt.2 hfull)
    rw [StepKeeps, step_of_counter hphase hdone]
    cases hm : (readToken s).bind fun t s => performToken t s with
    | ok a t =>
      obtain ⟨hkeeps, hloop⟩ := h.tokenStep hlegal (htoken.of_ok hm)
      exact ⟨t, rfl, hkeeps, hloop⟩
    | ended t =>
      obtain ⟨e, -, u, hu, rfl⟩ := htoken.of_ended hm
      exact ⟨_, rfl, (hu.raise e.1 e.2).aside (aside_releaseStack _), loopLegal_of_idle rfl⟩
    | stop e => rw [hm] at htoken; exact htoken.elim

end

/-! ### The statements of this unit -/

/-- A step of a state that meets the invariant. -/
theorem stepKeeps_of_inv {s : State} (h : s.inv = true) : StepKeeps s := by
  obtain ⟨hlegal, hloop⟩ := (inv_iff s).1 h
  cases hphase : s.phase with
  | idle => exact hlegal.stepKeeps_of_idle hphase
  | treeLoop => exact (inLoop_of_loopLegal hlegal hphase hloop).stepKeeps hlegal hphase

theorem keeps_of_step {s t : State} (h : s.inv = true) (hstep : step s = .next t) :
    Keeps s t ∧ loopLegal t = true := by
  obtain ⟨u, hu, hkeeps⟩ := stepKeeps_of_inv h
  cases hstep.symm.trans hu
  exact hkeeps

/-- Settles O59. -/
theorem stepKeepsTheInvariant : Obligations.StepKeepsTheInvariant := by
  intro s t hinv hstep
  obtain ⟨hkeeps, hloop⟩ := keeps_of_step hinv hstep
  exact (inv_iff t).2 ⟨hkeeps.legal, hloop⟩

/-- Settles O60. -/
theorem stepNeverStops : Obligations.StepNeverStops := by
  intro s hinv
  obtain ⟨t, hstep, -⟩ := stepKeeps_of_inv hinv
  exact ⟨t, hstep⟩

/-- Settles O20: ANALYZE sets FAV with its claim, and what else leaves FAV set leaves FT and TOTAL. -/
theorem stepKeepsTheCountInvariant : Obligations.StepKeepsTheCountInvariant :=
  fun _ _ hinv hcounts hstep => (keeps_of_step hinv hstep).1.counts hcounts

/-- Settles O34: DICT_ENC and DICT_DEC set their flags with their claims, and what writes a tree clears both. -/
theorem stepKeepsDictionariesMatchingTheTree : Obligations.StepKeepsDictionariesMatchingTheTree :=
  fun _ _ hinv hdict hstep => (keeps_of_step hinv hstep).1.dictionaries hdict

end Sys2Proof.Machine
end

section
/-! SUPPORT. What COMPRESS and DECOMPRESS can do, by their stages (spec/44_encoder.md R134, spec/45_decoder.md R144),
and what every instruction reports and appends (spec/60_exceptions.md R160, spec/20_memory.md R41); with these the
statements of these units. -/

namespace Sys2Proof.Machine

open Sys2Proof

/-! ### What COMPRESS can do (R134) -/

/-- `t` differs from a cleared `s` in what COMPRESS writes and reads. -/
structure CompressKept (s t : State) : Prop where
  frame : t = { clearCore s with
    status := t.status, flags := t.flags, total := t.total, leafCnt := t.leafCnt, root := t.root, nCount := t.nCount
    errOffset := t.errOffset, ft := t.ft, node := t.node, ct := t.ct, pq := t.pq, inBytes := t.inBytes
    outBits := t.outBits, ioAnswers := t.ioAnswers, phase := t.phase, draws := t.draws }
  outBits : s.outBits <+: t.outBits
  flags : t.flags &&& 0b11000#5 = 0#5

/-- COMPRESS of `s` is under way in `t` without a fault, with FLAGS `f`. -/
structure Compressing (s : State) (f : BitVec 5) (t : State) : Prop extends CompressKept s t where
  flagsEq : t.flags = f
  status : t.status = 0x00#8

/-- A fault ended the command in `t`, under one of its kinds and stages. -/
def Reported (i : Instr) (t : State) : Prop := ∃ e ∈ faultsOf i, t.status = statusWord e.1 e.2

theorem Raised.reported {faults : List (ErrKind × Opcode)} {R : State → Prop} {i : Instr} {t : State}
    (h : Raised faults R t) (hsub : faults ⊆ faultsOf i) : Reported i t := by
  obtain ⟨e, he, u, -, rfl⟩ := h
  exact ⟨e, hsub he, rfl⟩

theorem ioFault_subset_faultsOf {i : Instr} {s : State} {g : Opcode} (h : (.ioError, g) ∈ faultsOf i) :
    ioFault s g ⊆ faultsOf i := fun _ he => (mem_ioFault.1 he).2 ▸ h

section

variable {s t u : State} {f : BitVec 5}

theorem CompressKept.raise (h : CompressKept s t) (k : ErrKind) (g : Opcode) : CompressKept s (raise k g t) := by
  refine ⟨?_, h.outBits, h.flags⟩
  rw [h.frame]
  rfl

/-- A fault ended COMPRESS of `s` in `t`. -/
def CompressFaulted (s t : State) : Prop := CompressKept s t ∧ Reported .compress t

theorem CompressFaulted.of_raised {faults : List (ErrKind × Opcode)} {R : State → Prop} (h : Raised faults R t)
    (hsub : faults ⊆ faultsOf .compress) (hR : ∀ u, R u → CompressKept s u) :
    CompressFaulted s t := by
  refine ⟨?_, h.reported hsub⟩
  obtain ⟨e, -, u, hu, rfl⟩ := h
  exact (hR u hu).raise e.1 e.2

theorem AnalyzeKept.compressKept (h : AnalyzeKept (clearCore s) t) (hflags : t.flags = 0#5 ∨ t.flags = favMask) :
    CompressKept s t := by
  refine ⟨?_, ?_, ?_⟩
  · rw [h.frame]
  · rw [h.frame]
    exact List.prefix_rfl
  · rcases hflags with h | h <;> rw [h] <;> decide

theorem Compressing.wrote (h : Compressing s f t) (hu : Wrote t u) : Compressing s f u := by
  obtain ⟨hframe, hout, -⟩ := hu
  have hflags : u.flags = t.flags := by rw [hframe]
  refine ⟨⟨?_, h.outBits.trans hout, ?_⟩, ?_, ?_⟩
  · rw [hframe, h.frame]
  · rw [hflags]; exact h.flags
  · rw [hflags]; exact h.flagsEq
  · rw [hframe]; exact h.status

theorem Compressing.encBodyKept {p : Nat} (h : Compressing s f t) (hu : EncBodyKept t p u) : Compressing s f u := by
  have hframe := hu.frame
  have hflags : u.flags = t.flags := by rw [hframe]
  refine ⟨⟨?_, h.outBits.trans hu.outBits, ?_⟩, ?_, ?_⟩
  · rw [hframe, h.frame]
  · rw [hflags]; exact h.flags
  · rw [hflags]; exact h.flagsEq
  · rw [hframe]; exact h.status

/-- FLAGS after the three stages of COMPRESS that set one: FAV, TRV, DEV. -/
theorem Compressing.analyzed (h : Counted (clearCore s) favMask t) : Compressing s favMask t := by
  refine ⟨h.toAnalyzeKept.compressKept (.inr h.flags), h.flags, ?_⟩
  rw [h.frame]
  rfl

theorem Compressing.built (h : Compressing s favMask t) (hu : BuildKept t u) : Compressing s 0b00011#5 u := by
  rw [BuildKept] at hu
  have hflags : u.flags = 0b00011#5 := by
    rw [hu]
    exact (congrArg (fun f => f &&& 0b00001#5 ||| 0b00010#5) h.flagsEq).trans (by decide)
  refine ⟨⟨?_, ?_, by rw [hflags]; decide⟩, hflags, ?_⟩
  · rw [hu, h.frame]
  · rw [hu]; exact h.outBits
  · rw [hu]; exact h.status

theorem Compressing.encoded (h : Compressing s 0b00011#5 t) (ps : List (Symbol × Bits)) :
    Compressing s 0b00111#5 (encoded ps t) := by
  have hflags : (Machine.encoded ps t).flags = 0b00111#5 := (congrArg (· ||| devMask) h.flagsEq).trans (by decide)
  refine ⟨⟨?_, h.outBits, by rw [hflags]; decide⟩, hflags, h.status⟩
  rw [h.frame]
  rfl

end

/-- COMPRESS, whatever the streams do (that it does not stop stands with the invariant). -/
theorem compressUnit_ends (s : State) :
    (compressUnit s).Ends (fun _ => Compressing s 0b00111#5) (CompressFaulted s) True := by
  refine Flow.Ends.bind (P := fun _ t => t = clearCore s) rfl ?_
  rintro - _ rfl
  refine ((analyzeUnit_ends _).imp (fun _ _ h => Compressing.analyzed h) ?_ False.elim).bind fun _ t ht => ?_
  · rintro t (h | h)
    · exact .of_raised h (ioFault_subset_faultsOf (by decide)) fun u hu => hu.1.compressKept (.inl hu.2)
    · exact .of_raised h (by decide) fun u hu => hu.1.1.compressKept (.inl hu.1.2)
  refine ((buildUnit_ends t).imp (fun _ _ h => ht.built h) (fun _ h => h.elim) id).bind fun _ t ht => ?_
  refine Flow.Ends.bind (P := fun _ => Compressing s 0b00111#5) ?_ fun _ t ht => ?_
  · rcases dictEncUnit_cases t with ⟨htrv, -⟩ | ⟨-, ps, -, hrun⟩ | ⟨-, -, hrun⟩
    · rw [State.trv, ht.flagsEq] at htrv
      exact absurd htrv (by decide)
    · exact hrun ▸ ht.encoded ps
    · exact hrun ▸ trivial
  refine Flow.Ends.bind (P := fun _ => Compressing s 0b00111#5) ?_ fun _ t ht => ?_
  · exact (hdrWrUnit_ends (by rw [State.fav, State.trv, ht.flagsEq]; decide)).imp (fun _ _ h => ht.wrote h)
      (fun _ h => .of_raised h (ioFault_subset_faultsOf (by decide)) fun _ hu => (ht.wrote hu).toCompressKept)
      False.elim
  refine Flow.Ends.bind (P := fun _ => Compressing s 0b00111#5) ?_ fun _ t ht => ?_
  · exact (treeWrUnit_ends (by rw [State.trv, ht.flagsEq]; decide)).imp (fun _ _ h => ht.wrote h)
      (fun _ h => .of_raised h (ioFault_subset_faultsOf (by decide)) fun _ hu => (ht.wrote hu).toCompressKept)
      fun _ => trivial
  refine Flow.Ends.bind (P := fun _ => Compressing s 0b00111#5) ?_ fun _ t ht => ?_
  · refine (encBodyUnit_ends (by rw [State.fav, State.dev, ht.flagsEq]; decide)).imp
      (fun _ _ ⟨_, h⟩ => ht.encBodyKept h)
      (fun _ h => .of_raised h ?_ fun _ ⟨_, hu⟩ => (ht.encBodyKept hu).toCompressKept) False.elim
    exact List.append_subset.2 ⟨ioFault_subset_faultsOf (by decide), by decide⟩
  · have hclosed : Wrote t (padOut (bytesRead 0 1 t)) := wrote_appendBits _ 1 t
    exact closeOut_ends (ht.wrote hclosed) fun _ => ⟨(ht.wrote (wrote_bytesRead 1 t)).toCompressKept.raise _ _,
      (.ioError, 0x7#4), by decide, rfl⟩

/-! ### What DECOMPRESS can do (R144) -/

/-- `t` differs from a cleared `s` in what DECOMPRESS writes and reads. -/
structure DecompressKept (s t : State) : Prop where
  frame : t = { clearCore s with
    status := t.status, flags := t.flags, total := t.total, leafCnt := t.leafCnt, root := t.root, nCount := t.nCount
    maxDepth := t.maxDepth, errOffset := t.errOffset, node := t.node, dt := t.dt, stack := t.stack, remL := t.remL
    remI := t.remI, rem := t.rem, pathBuf := t.pathBuf, inBits := { s.inBits with pos := t.inBits.pos }
    outBytes := t.outBytes, ioAnswers := t.ioAnswers, phase := t.phase, draws := t.draws }
  outBytes : s.outBytes <+: t.outBytes
  flags : t.flags &&& 0b00101#5 = 0#5

/-- DECOMPRESS of `s` is under way in `t` without a fault, with FLAGS `f`. -/
structure Decompressing (s : State) (f : BitVec 5) (t : State) : Prop extends DecompressKept s t where
  flagsEq : t.flags = f
  status : t.status = 0x00#8

/-- A fault ended DECOMPRESS of `s` in `t`. -/
def DecompressFaulted (s t : State) : Prop := DecompressKept s t ∧ Reported .decompress t

section

variable {s t u : State} {f : BitVec 5}

theorem DecompressKept.raise (h : DecompressKept s t) (k : ErrKind) (g : Opcode) : DecompressKept s (raise k g t) := by
  refine ⟨?_, h.outBytes, h.flags⟩
  rw [h.frame]
  rfl

theorem DecompressFaulted.of_raised {faults : List (ErrKind × Opcode)} {R : State → Prop} (h : Raised faults R t)
    (hsub : faults ⊆ faultsOf .decompress) (hR : ∀ u, R u → DecompressKept s u) : DecompressFaulted s t := by
  refine ⟨?_, h.reported hsub⟩
  obtain ⟨e, -, u, hu, rfl⟩ := h
  exact (hR u hu).raise e.1 e.2

theorem DecompressFaulted.releaseStack (h : DecompressFaulted s t) : DecompressFaulted s (releaseStack t) := by
  obtain ⟨⟨hframe, hout, hflags⟩, hreported⟩ := h
  refine ⟨⟨?_, hout, hflags⟩, hreported⟩
  rw [hframe]
  rfl

theorem DecompressFaulted.releasePath (h : DecompressFaulted s t) : DecompressFaulted s (releasePath t) := by
  obtain ⟨⟨hframe, hout, hflags⟩, hreported⟩ := h
  refine ⟨⟨?_, hout, hflags⟩, hreported⟩
  rw [hframe]
  rfl

theorem Decompressing.headerRead (h : HdrRdKept (clearCore s) f t) (hf : f &&& 0b00101#5 = 0#5) :
    Decompressing s f t := by
  have hframe := h.frame
  have hflags : t.flags = f := by rw [hframe]
  refine ⟨⟨?_, ?_, by rw [hflags]; exact hf⟩, hflags, ?_⟩
  · rw [hframe]
    rfl
  · rw [hframe]; exact List.prefix_rfl
  · rw [hframe]; rfl

theorem Decompressing.treeRead {m : BitVec 5} (h : Decompressing s hrvMask t)
    (hu : TreeRdKept t (treeRdFlags t ||| m) u) (hm : (hrvMask ||| m) &&& 0b00101#5 = 0#5) :
    Decompressing s (hrvMask ||| m) u := by
  have hframe := hu.frame
  have hflags : u.flags = hrvMask ||| m := by
    rw [hframe]
    exact congrArg (· ||| m) ((congrArg (· &&& 0b10001#5) h.flagsEq).trans (by decide))
  refine ⟨⟨?_, ?_, by rw [hflags]; exact hm⟩, hflags, ?_⟩
  · rw [hframe, h.frame]
  · rw [hframe]; exact h.outBytes
  · rw [hframe]; exact h.status

theorem Decompressing.decoded (h : Decompressing s (hrvMask ||| trvMask) t) (ps : List (Symbol × Bits)) :
    Decompressing s 0b11010#5 (decoded ps t) := by
  have hflags : (Machine.decoded ps t).flags = 0b11010#5 := (congrArg (· ||| ddvMask) h.flagsEq).trans (by decide)
  refine ⟨⟨?_, h.outBytes, by rw [hflags]; decide⟩, hflags, h.status⟩
  rw [h.frame]
  rfl

theorem Decompressing.decBodyKept (h : Decompressing s f t) (hu : DecBodyKept t u) : Decompressing s f u := by
  have hframe := hu.frame
  have hflags : u.flags = t.flags := by rw [hframe]
  refine ⟨⟨?_, h.outBytes.trans hu.outBytes, ?_⟩, ?_, ?_⟩
  · rw [hframe, h.frame]
  · rw [hflags]; exact h.flags
  · rw [hflags]; exact h.flagsEq
  · rw [hframe]; exact h.status

end

/-- DECOMPRESS, whatever the streams do (that it does not stop stands with the invariant). -/
theorem decompressUnit_ends (s : State) :
    (decompressUnit s).Ends (fun _ => Decompressing s 0b11010#5) (DecompressFaulted s) True := by
  refine Flow.Ends.bind (P := fun _ t => t = clearCore s) rfl ?_
  rintro - _ rfl
  refine ((hdrRdUnit_ends _).imp (fun _ _ h => Decompressing.headerRead h.1 (by decide)) (fun t h => ?_)
    False.elim).bind fun _ t ht => ?_
  · exact .of_raised h (List.append_subset.2 ⟨ioFault_subset_faultsOf (by decide), by decide⟩)
      fun u hu => (Decompressing.headerRead hu (by decide)).toDecompressKept
  refine ((treeRdUnit_ends (by rw [State.hrv, ht.flagsEq]; decide)).imp (fun _ _ h => ht.treeRead h (by decide))
    (fun u h => ?_) id).bind fun _ t ht => ?_
  · obtain ⟨v, hv, rfl⟩ := h
    refine DecompressFaulted.releaseStack (.of_raised hv
      (List.append_subset.2 ⟨ioFault_subset_faultsOf (by decide), by decide⟩) fun w hw => ?_)
    rw [← BitVec.or_zero (x := treeRdFlags t)] at hw
    exact (ht.treeRead hw (by decide)).toDecompressKept
  refine Flow.Ends.bind (P := fun _ => Decompressing s 0b11010#5) ?_ fun _ t ht => ?_
  · rcases dictDecUnit_cases t with ⟨htrv, -⟩ | ⟨-, ps, -, hrun⟩ | ⟨-, -, hrun⟩
    · rw [State.trv, ht.flagsEq] at htrv
      exact absurd htrv (by decide)
    · exact hrun ▸ ht.decoded ps
    · exact hrun ▸ trivial
  · refine (decBodyUnit_ends (by rw [State.hrv, State.ddv, ht.flagsEq]; decide)).imp (fun _ _ h => ht.decBodyKept h)
      (fun u h => ?_) False.elim
    obtain ⟨v, hv, rfl⟩ := h
    exact DecompressFaulted.releasePath (.of_raised hv
      (List.append_subset.2 ⟨ioFault_subset_faultsOf (by decide), by decide⟩)
      fun w hw => (ht.decBodyKept hw).toDecompressKept)

end Sys2Proof.Machine
end

section
/-! SUPPORT. What every instruction reports in STATUS and appends to its outputs (spec/60_exceptions.md R160,
spec/20_memory.md R41), and the frames of COMPRESS and DECOMPRESS; with these the statements of these units. -/

namespace Sys2Proof.Machine

open Sys2Proof

/-! ### Reports and outputs -/

/-- Both outputs only grew at their ends. -/
def Grew (s t : State) : Prop := s.outBits <+: t.outBits ∧ s.outBytes <+: t.outBytes

theorem Grew.of_eq {s t : State} (hbits : t.outBits = s.outBits) (hbytes : t.outBytes = s.outBytes) : Grew s t :=
  ⟨hbits ▸ List.prefix_rfl, hbytes ▸ List.prefix_rfl⟩

/-- The instruction kept STATUS or reported one of its faults, and its outputs only grew. -/
def Reports (i : Instr) (s t : State) : Prop := (t.status = statusKept i s ∨ Reported i t) ∧ Grew s t

section

variable {i : Instr} {s t : State}

theorem Reports.of_kept (hstatus : t.status = statusKept i s) (hgrew : Grew s t) : Reports i s t :=
  ⟨.inl hstatus, hgrew⟩

theorem Reports.of_raised {faults : List (ErrKind × Opcode)} {R : State → Prop} (h : Raised faults R t)
    (hsub : faults ⊆ faultsOf i) (hR : ∀ u, R u → Grew s u) : Reports i s t := by
  refine ⟨.inr (h.reported hsub), ?_⟩
  obtain ⟨e, -, u, hu, rfl⟩ := h
  exact hR u hu

/-- The faults of a unit's streams and one more. -/
theorem ioFault_append_subset {g : Opcode} {e : ErrKind × Opcode} (hio : (.ioError, g) ∈ faultsOf i)
    (he : e ∈ faultsOf i) : ioFault s g ++ [e] ⊆ faultsOf i :=
  List.append_subset.2 ⟨ioFault_subset_faultsOf hio, fun _ hmem => List.mem_singleton.1 hmem ▸ he⟩

/-- A command that begins with `require` reports SequenceError where the condition does not hold. -/
theorem reports_of_require {c : Bool} {g : Opcode} {f : Unit → State → Flow Unit}
    (hexec : ((require c g s).bind f).outcome = .next t) (hmem : (.sequenceError, g) ∈ faultsOf i)
    (hrun : c = true → Reports i s t) : Reports i s t := by
  cases hc : c with
  | false =>
    rw [hc, require_bind_of_false rfl] at hexec
    cases hexec
    exact ⟨.inr ⟨_, hmem, rfl⟩, .of_eq rfl rfl⟩
  | true => exact hrun hc

theorem Wrote.grew (h : Wrote s t) : Grew s t :=
  ⟨h.2.1, (show t.outBytes = s.outBytes by rw [h.1]) ▸ List.prefix_rfl⟩

theorem Wrote.status (h : Wrote s t) : t.status = s.status := by rw [h.1]

theorem AnalyzeKept.grew (h : AnalyzeKept s t) : Grew s t := .of_eq (by rw [h.frame]) (by rw [h.frame])

theorem HdrRdKept.grew {f : BitVec 5} (h : HdrRdKept s f t) : Grew s t := .of_eq (by rw [h.frame]) (by rw [h.frame])

theorem TreeRdKept.grew {f : BitVec 5} (h : TreeRdKept s f t) : Grew s t := .of_eq (by rw [h.frame]) (by rw [h.frame])

theorem EncBodyKept.grew {p : Nat} (h : EncBodyKept s p t) : Grew s t :=
  ⟨h.outBits, (show t.outBytes = s.outBytes by rw [h.frame]) ▸ List.prefix_rfl⟩

theorem DecBodyKept.grew (h : DecBodyKept s t) : Grew s t :=
  ⟨(show t.outBits = s.outBits by rw [h.frame]) ▸ List.prefix_rfl, h.outBytes⟩

theorem CompressKept.grew (h : CompressKept s t) : Grew s t :=
  ⟨h.outBits, (show t.outBytes = s.outBytes by rw [h.frame]; rfl) ▸ List.prefix_rfl⟩

theorem DecompressKept.grew (h : DecompressKept s t) : Grew s t :=
  ⟨(show t.outBits = s.outBits by rw [h.frame]; rfl) ▸ List.prefix_rfl, h.outBytes⟩

/-! ### Each instruction -/

theorem reports_analyze (hexec : exec .analyze s = .next t) : Reports .analyze s t := by
  rcases (analyzeUnit_ends s).of_outcome hexec with hok | hfault | hfault
  · exact .of_kept (by rw [hok.frame]; rfl) hok.toAnalyzeKept.grew
  · exact .of_raised hfault (ioFault_subset_faultsOf (by decide)) fun u hu => hu.1.grew
  · exact .of_raised hfault (by decide) fun u hu => hu.1.1.grew

theorem reports_build (hexec : exec .build s = .next t) : Reports .build s t := by
  rcases (buildUnit_ends s).of_outcome hexec with hok | hfault
  · rw [BuildKept] at hok
    exact .of_kept (by rw [hok]; rfl) (.of_eq (by rw [hok]) (by rw [hok]))
  · exact hfault.elim

theorem reports_dictEnc (hexec : exec .dictEnc s = .next t) : Reports .dictEnc s t := by
  rw [exec_dictEnc] at hexec
  rcases dictEncUnit_cases s with ⟨-, hrun⟩ | ⟨-, ps, -, hrun⟩ | ⟨-, -, hrun⟩ <;> rw [hrun] at hexec <;> cases hexec
  · exact ⟨.inr ⟨_, List.mem_cons_self, rfl⟩, .of_eq rfl rfl⟩
  · exact .of_kept rfl (.of_eq rfl rfl)

theorem reports_dictDec (hexec : exec .dictDec s = .next t) : Reports .dictDec s t := by
  rw [exec_dictDec] at hexec
  rcases dictDecUnit_cases s with ⟨-, hrun⟩ | ⟨-, ps, -, hrun⟩ | ⟨-, -, hrun⟩ <;> rw [hrun] at hexec <;> cases hexec
  · exact ⟨.inr ⟨_, List.mem_cons_self, rfl⟩, .of_eq rfl rfl⟩
  · exact .of_kept rfl (.of_eq rfl rfl)

theorem reports_hdrWr (hexec : exec .hdrWr s = .next t) : Reports .hdrWr s t :=
  reports_of_require hexec (by decide) fun hc => by
    rcases (hdrWrUnit_ends hc).of_outcome hexec with hok | hfault
    · exact .of_kept hok.status hok.grew
    · exact .of_raised hfault (ioFault_subset_faultsOf (by decide)) fun u hu => hu.grew

theorem reports_treeWr (hexec : exec .treeWr s = .next t) : Reports .treeWr s t :=
  reports_of_require hexec (by decide) fun hc => by
    rcases (treeWrUnit_ends hc).of_outcome hexec with hok | hfault
    · exact .of_kept hok.status hok.grew
    · exact .of_raised hfault (ioFault_subset_faultsOf (by decide)) fun u hu => hu.grew

theorem reports_encBody (hexec : exec .encBody s = .next t) : Reports .encBody s t :=
  reports_of_require hexec (by decide) fun hc => by
    rcases (encBodyUnit_ends hc).of_outcome hexec with ⟨p, hok⟩ | hfault
    · exact .of_kept (by rw [hok.frame]; rfl) hok.grew
    · exact .of_raised hfault (ioFault_append_subset (by decide) (by decide)) fun u ⟨_, hu⟩ => hu.grew

theorem reports_hdrRd (hexec : exec .hdrRd s = .next t) : Reports .hdrRd s t := by
  rcases (hdrRdUnit_ends s).of_outcome hexec with ⟨hok, -⟩ | hfault
  · exact .of_kept (by rw [hok.frame]; rfl) hok.grew
  · exact .of_raised hfault (ioFault_append_subset (by decide) (by decide)) fun u hu => hu.grew

theorem reports_treeRd (hexec : exec .treeRd s = .next t) : Reports .treeRd s t :=
  reports_of_require hexec (by decide) fun hc => by
    rcases (treeRdUnit_ends hc).of_outcome hexec with hok | ⟨u, hfault, rfl⟩
    · exact .of_kept (by rw [hok.frame]; rfl) hok.grew
    · exact Reports.of_raised (t := u) hfault (ioFault_append_subset (by decide) (by decide)) fun v hv => hv.grew

theorem reports_decBody (hexec : exec .decBody s = .next t) : Reports .decBody s t :=
  reports_of_require hexec (by decide) fun hc => by
    rcases (decBodyUnit_ends hc).of_outcome hexec with hok | ⟨u, hfault, rfl⟩
    · exact .of_kept (by rw [hok.frame]; rfl) hok.grew
    · exact Reports.of_raised (t := u) hfault (ioFault_append_subset (by decide) (by decide)) fun v hv => hv.grew

theorem reports_compress (hexec : exec .compress s = .next t) : Reports .compress s t := by
  rcases (compressUnit_ends s).of_outcome hexec with hok | ⟨hkept, hreported⟩
  · exact .of_kept hok.status hok.toCompressKept.grew
  · exact ⟨.inr hreported, hkept.grew⟩

theorem reports_decompress (hexec : exec .decompress s = .next t) : Reports .decompress s t := by
  rcases (decompressUnit_ends s).of_outcome hexec with hok | ⟨hkept, hreported⟩
  · exact .of_kept hok.status hok.toDecompressKept.grew
  · exact ⟨.inr hreported, hkept.grew⟩

/-- A token that is performed, or refused with CorruptStreamError (R115, R116). -/
theorem reports_token {m : Flow Unit} {P : State → Prop} {S : Prop}
    (h : m.Ends (fun _ => P) (fun t => t = raise .corruptStream 0xA#4 s) S)
    (hP : ∀ u, P u → u.status = statusKept i s ∧ Grew s u) (hmem : (.corruptStream, 0xA#4) ∈ faultsOf i)
    (hexec : tokenOutcome m = .next t) : Reports i s t := by
  cases m with
  | ok a u =>
    cases hexec
    exact .of_kept (hP _ h).1 (hP _ h).2
  | ended u =>
    cases hexec
    obtain rfl : u = _ := h
    exact ⟨.inr ⟨_, hmem, rfl⟩, .of_eq rfl rfl⟩
  | stop e => cases hexec

theorem reports_tLeaf (sym : Symbol) (hexec : exec (.tLeaf sym) s = .next t) : Reports (.tLeaf sym) s t := by
  refine reports_token (tokenLeaf_ends sym s) ?_ List.mem_cons_self hexec
  rintro u ⟨-, -, rfl⟩
  exact ⟨rfl, .of_eq rfl rfl⟩

theorem reports_tMerge (hexec : exec .tMerge s = .next t) : Reports .tMerge s t := by
  refine reports_token (tokenMerge_ends s) ?_ List.mem_cons_self hexec
  rintro u ⟨-, -, a, b, below, -, rfl⟩
  exact ⟨rfl, .of_eq rfl rfl⟩

end

/-- Every instruction that answers a next state. -/
theorem reports_of_exec {i : Instr} {s t : State} (hexec : exec i s = .next t) : Reports i s t := by
  cases i with
  | clear => cases hexec; exact .of_kept rfl (.of_eq rfl rfl)
  | ftWrite sym count => cases hexec; exact .of_kept rfl (.of_eq rfl rfl)
  | analyze => exact reports_analyze hexec
  | build => exact reports_build hexec
  | dictEnc => exact reports_dictEnc hexec
  | hdrWr => exact reports_hdrWr hexec
  | treeWr => exact reports_treeWr hexec
  | encBody => exact reports_encBody hexec
  | compress => exact reports_compress hexec
  | hdrRd => exact reports_hdrRd hexec
  | treeRd => exact reports_treeRd hexec
  | dictDec => exact reports_dictDec hexec
  | decBody => exact reports_decBody hexec
  | decompress => exact reports_decompress hexec
  | tLeaf sym => exact reports_tLeaf sym hexec
  | tMerge => exact reports_tMerge hexec

/-! ### The statements of these units -/

/-- Settles O15, by the instruction. -/
theorem eachInstructionRaisesOnlyItsFaults : Obligations.EachInstructionRaisesOnlyItsFaults :=
  fun _ _ _ hexec => (reports_of_exec hexec).1

/-- Settles O57, by the instruction. -/
theorem outputsOnlyGrow : Obligations.OutputsOnlyGrow := fun _ _ _ hexec => (reports_of_exec hexec).2

/-- Settles O56: COMPRESS sets none of the decoder's flags, DECOMPRESS none of the encoder's. -/
theorem macroFrame : Obligations.MacroFrame := by
  intro s t
  constructor
  · intro hexec
    have hkept : CompressKept s t :=
      ((compressUnit_ends s).of_outcome hexec).elim (fun h => h.toCompressKept) And.left
    have hflags : t.ddv = false ∧ t.hrv = false := by
      have hmask := hkept.flags
      simp only [State.ddv, State.hrv]
      generalize t.flags = f at hmask ⊢
      revert f
      decide
    have hframe := hkept.frame
    refine ⟨?_, ?_, ?_, ?_, ?_, ?_, ?_, ?_, ?_, ?_, hflags⟩ <;> rw [hframe] <;> rfl
  · intro hexec
    have hkept : DecompressKept s t :=
      ((decompressUnit_ends s).of_outcome hexec).elim (fun h => h.toDecompressKept) And.left
    have hflags : t.fav = false ∧ t.dev = false := by
      have hmask := hkept.flags
      simp only [State.fav, State.dev]
      generalize t.flags = f at hmask ⊢
      revert f
      decide
    have hframe := hkept.frame
    refine ⟨?_, ?_, ?_, ?_, ?_, ?_, ?_, hflags⟩ <;> rw [hframe] <;> rfl

end Sys2Proof.Machine
end

section
/-! SUPPORT. The file COMPRESS writes on quiet streams (spec/44_encoder.md R134, R136): what its stages leave, and that
all of it is a function of the input; with these the statements of this unit. -/

namespace Sys2Proof.Machine

open Sys2Proof

/-! ### Canonical tables with equal reads are equal (20_memory.md R50) -/

theorem eq_of_find_eq {κ α : Type} {rank : κ → Nat} (hrank : Function.Injective rank) {t u : Table κ α}
    (ht : Table.rising rank t = true) (hu : Table.rising rank u = true)
    (h : ∀ k, Table.find rank t k = Table.find rank u k) : t = u := by
  induction t generalizing u with
  | nil =>
    cases u with
    | nil => rfl
    | cons e u => exact absurd (h e.1) (by simp [Table.find])
  | cons d t ih =>
    cases u with
    | nil => exact absurd (h d.1) (by simp [Table.find])
    | cons e u =>
      obtain ⟨habove, ht⟩ := (rising_cons rank d.1 d.2 t).1 ht
      obtain ⟨habove', hu⟩ := (rising_cons rank e.1 e.2 u).1 hu
      have hkey : rank d.1 = rank e.1 := by
        rcases lt_trichotomy (rank d.1) (rank e.1) with hlt | heq | hlt
        · have hnone : Table.find rank (e :: u) d.1 = none :=
            find_above rank _ _ (List.forall_mem_cons.2 ⟨hlt, fun c hc => hlt.trans (habove' c hc)⟩)
          exact absurd ((h d.1).trans hnone) (by simp [Table.find])
        · exact heq
        · have hnone : Table.find rank (d :: t) e.1 = none :=
            find_above rank _ _ (List.forall_mem_cons.2 ⟨hlt, fun c hc => hlt.trans (habove c hc)⟩)
          exact absurd ((h e.1).symm.trans hnone) (by simp [Table.find])
      have hval : d.2 = e.2 := by simpa [Table.find, hkey] using h d.1
      have htail : t = u := ih ht hu fun k => by
        by_cases hk : rank d.1 = rank k
        · rw [find_above rank t k (hk ▸ habove), find_above rank u k (hk ▸ hkey ▸ habove')]
        · simpa [Table.find, hk, hkey ▸ hk] using h k
      rw [htail, Prod.ext (hrank hkey) hval]

/-- A canonical FT lists the symbols whose count is not 0. -/
theorem find_ft_of_ftWf {s : State} (h : ftWf s) (sym : Symbol) :
    Table.find symRank s.ft sym = if readFt s sym = 0#32 then none else some (readFt s sym) := by
  rw [readFt]
  cases hfind : Table.find symRank s.ft sym with
  | none => rfl
  | some v =>
    obtain ⟨k, -, hmem⟩ := mem_of_find hfind
    rw [Option.getD_some, if_neg (h.2 _ hmem)]

theorem ft_eq_of_readFt_eq {s t : State} (hs : ftWf s) (ht : ftWf t) (h : ∀ sym, readFt s sym = readFt t sym) :
    s.ft = t.ft :=
  eq_of_find_eq (fun _ _ => symRank_inj.1) hs.1 ht.1 fun sym => by
    rw [find_ft_of_ftWf hs, find_ft_of_ftWf ht, h sym]

/-- FT lists the symbols of the input, each once. -/
theorem length_ft_eq_dedup {s : State} {xs : List Symbol} (h : ftWf s)
    (hcount : ∀ sym, (readFt s sym).toNat = xs.count sym) : s.ft.length = xs.dedup.length := by
  have hnodup : (s.ft.map fun e => e.1).Nodup :=
    List.Nodup.of_map symRank (by
      rw [List.map_map]
      exact (pairwise_lt_of_rising symRank h.1).imp Nat.ne_of_lt)
  have hperm : (s.ft.map fun e => e.1).Perm xs.dedup := by
    refine (List.perm_ext_iff_of_nodup hnodup (List.nodup_dedup xs)).2 fun sym => ?_
    rw [List.mem_dedup, ← List.count_pos_iff (l := xs), ← hcount]
    constructor
    · intro hmem
      obtain ⟨e, he, rfl⟩ := List.mem_map.1 hmem
      have hfind : Table.find symRank s.ft e.1 ≠ none := find_ne_none_of_mem he rfl
      rw [find_ft_of_ftWf h] at hfind
      exact Nat.pos_of_ne_zero fun hzero => hfind (if_pos (BitVec.eq_of_toNat_eq hzero))
    · exact fun hpos => mem_keys_of_readFt_ne_zero fun hzero => by rw [hzero] at hpos; exact absurd hpos (by decide)
  simpa using hperm.length_eq

/-! ### The stages before the first write -/

/-- The stages of COMPRESS before its first write, one by one: `a` after ANALYZE, `b` after BUILD, `ps` the pairs of the
tree. -/
structure Stages (s : State) (X : List Byte) (a b : State) (ps : List (Symbol × Bits)) : Prop where
  canonical : ftWf a
  counts : ∀ sym, (readFt a sym).toNat = (symbols X).count sym
  build : buildUnit a = .ok () b
  ft : b.ft = a.ft
  leafCnt : b.leafCnt = BitVec.ofNat 32 a.ft.length
  paths : treePaths b = some ps
  run : prepare s = .ok () (encoded ps b)

section

variable {s : State} {X : List Byte}

theorem exists_stages (h : s.quiet) (hX : s.delivers X) (hlen : X.length ≤ 2 ^ 32 - 1) :
    ∃ a b ps, Stages s X a b ps := by
  have hclear : (rewind (clearCore s)).inBytes = (rewind s).inBytes := rewind_inBytes_congr rfl
  obtain ⟨a, ha, hwf, hcount, -⟩ := analyzeUnit_quiet (s := clearCore s) h
    ((congrArg ByteSource.bytes hclear).trans hX.1) hlen
  obtain ⟨b, o, hb, ho, hsyms, hframe⟩ := buildUnit_of_ftWf hwf
  have hmax : leavesOf o ≤ Config.maxLeaves := by
    rw [← length_symsOf, hsyms.length_eq, List.length_map]
    exact length_ft_le hwf
  have hpaths := treePaths_of_holds ho (hmax.trans (by decide))
  have htrv : b.trv = true := by
    rw [State.trv, show b.flags = (buildStart a).flags ||| trvMask by rw [hframe]]
    simp [trvMask]
  exact ⟨a, b, codesOf o, hwf, hcount, hb, by rw [hframe], by rw [hframe], hpaths, by
    rw [prepare, ha, bind_ok, hb, bind_ok, dictEncUnit_of_paths htrv hpaths]⟩

/-! ### The whole command -/

/-- A file with its padding. -/
def padded (file : Bits) : Bits := file ++ padding file.length

/-- The file of an input under a tree and the code words of a state. -/
def fileFor (X : List Byte) (o : Option CodeTree) (t : State) : Bits := fileOf X.length o ((symbols X).flatMap t.codeOf)

/-- The stages that write: the header, the tree, the code words, the padding. -/
theorem write_quiet {o : Option CodeTree} {t : State} (p : Prepared s X o t) :
    ∃ u, ((hdrWrUnit t).bind fun _ s => (treeWrUnit s).bind fun _ s =>
        (encBodyUnit s).bind fun _ s => closeOut 0x7#4 s) = .ok () u ∧
      u = { t with
        outBits := padded (s.outBits ++ fileFor X o t), inBytes := u.inBytes, ioAnswers := u.ioAnswers } := by
  have hfav : t.fav = true := by rw [State.fav, p.flags]; rfl
  have htrv : t.trv = true := by rw [State.trv, p.flags]; rfl
  have hdev : t.dev = true := by rw [State.dev, p.flags]; rfl
  let head := fieldBits t.total ++ fieldBits t.leafCnt
  have hhdr : hdrWrUnit t = .ok () (appendBits head (bytesRead 0 2 t)) := hdrWrUnit_quiet hfav htrv p.quiet
  have hholds : (appendBits head (bytesRead 0 2 t)).holds o :=
    (holds_congr (s := t) (t := appendBits head (bytesRead 0 2 t)) rfl rfl).2 p.tree
  obtain ⟨k, htree⟩ := treeWrUnit_quiet (o := o) (s := appendBits head (bytesRead 0 2 t)) htrv
    (quiet_bytesRead p.quiet 0 2) hholds (p.leaves.trans (by decide))
  rw [bytesRead_appendBits, bytesRead_bytesRead, appendBits_appendBits] at htree
  obtain ⟨w, hw⟩ : ∃ w, w = appendBits (head ++ treeBitsOf o) (bytesRead (0 + 0) (2 + k) t) := ⟨_, rfl⟩
  rw [← hw] at htree
  have hwout : w.outBits = t.outBits ++ (head ++ treeBitsOf o) := by rw [hw]; rfl
  have hwq : w.quiet := by rw [hw]; exact quiet_bytesRead p.quiet 0 (2 + k)
  have hwframe : w = { t with outBits := w.outBits, ioAnswers := w.ioAnswers } := by rw [hw]; rfl
  have hpass : w.nextPass = X := by
    have hin : w.inBytes = t.inBytes := by rw [hwframe]
    rw [nextPass_eq_headD, hin, ← nextPass_eq_headD, p.nextPass]
  have hct : w.ct = t.ct := by rw [hwframe]
  obtain ⟨v, hbody, hq, hf⟩ := encBodyUnit_quiet (s := w) (X := X) (by rw [hwframe]; exact hfav)
    (by rw [hwframe]; exact hdev) hwq hpass fun sym hsym => by
      obtain ⟨q, hq, -⟩ := p.codes sym hsym
      rw [readCt, hct, ← readCt, hq]
      exact Option.some_ne_none q
  have hout : v.outBits = s.outBits ++ fileFor X o t := by
    rw [hf, codeOf_congr hct, hwout, fileFor, fileOf, ← p.total, ← p.leafCnt, ← p.outBits]
    simp only [head, List.append_assoc]
  have hv : v = { t with outBits := v.outBits, inBytes := v.inBytes, ioAnswers := v.ioAnswers } := by
    rw [hf, hwframe]
  refine ⟨appendBits (padding v.outBits.length) (bytesRead 0 1 v), by
    rw [hhdr, bind_ok, htree, bind_ok, hbody, bind_ok, closeOut_quiet hq], ?_⟩
  rw [padded, ← hout, hv]
  rfl

/-- COMPRESS on quiet streams, with all its stages. -/
theorem compress_stages (h : s.quiet) (hX : s.delivers X) (hlen : X.length ≤ 2 ^ 32 - 1) :
    ∃ a b ps o u, Stages s X a b ps ∧ Prepared s X o (encoded ps b) ∧ compressUnit s = .ok () u ∧
      u = { encoded ps b with
        outBits := padded (s.outBits ++ fileFor X o (encoded ps b))
        inBytes := u.inBytes, ioAnswers := u.ioAnswers } := by
  obtain ⟨a, b, ps, hstages⟩ := exists_stages h hX hlen
  obtain ⟨t, o, hprep, p⟩ := prepare_quiet h hX hlen
  cases hstages.run.symm.trans hprep
  obtain ⟨u, hwrite, hu⟩ := write_quiet p
  exact ⟨a, b, ps, o, u, hstages, p, by rw [compressUnit_eq_prepare_bind, hprep, bind_ok, hwrite], hu⟩

end

theorem exec_compress (s : State) : exec .compress s = (compressUnit s).outcome := rfl

/-- Settles O45: the stages before the first write give the registers and the tree, the others write the file. -/
theorem compressWritesTheWholeFile : Obligations.CompressWritesTheWholeFile := by
  intro s X hquiet hX hlen
  obtain ⟨a, b, ps, o, u, hstages, p, hrun, hu⟩ := compress_stages hquiet hX hlen
  have hcompress := (compressUnit_ends s).of_ok hrun
  have hframe := hcompress.frame
  have htotal : u.total = BitVec.ofNat 32 X.length := by rw [hu]; exact p.total
  have hleaf : u.leafCnt = BitVec.ofNat 32 (leavesOf o) := by rw [hu]; exact p.leafCnt
  have hleafNat : u.leafCnt.toNat = leavesOf o := by
    rw [hleaf]
    exact (BitVec.toNat_ofNat _ _).trans (Nat.mod_eq_of_lt (p.leaves.trans_lt (by decide)))
  have hdedup : u.leafCnt.toNat = (symbols X).dedup.length := by
    have hft : u.leafCnt = BitVec.ofNat 32 a.ft.length := by rw [hu]; exact hstages.leafCnt
    rw [hft, ← length_ft_eq_dedup hstages.canonical hstages.counts]
    exact (BitVec.toNat_ofNat _ _).trans (Nat.mod_eq_of_lt ((length_ft_le hstages.canonical).trans_lt (by decide)))
  have hholds : u.holds o := (holds_congr (by rw [hu]) (by rw [hu])).2 p.tree
  have hcode : u.codeOf = (encoded ps b).codeOf := codeOf_congr (by rw [hu])
  have hsymbols : X = [] ↔ leavesOf o = 0 := by
    rw [← hleafNat, hdedup, List.length_eq_zero_iff, List.dedup_eq_nil, ← List.length_eq_zero_iff (l := X),
      ← List.length_eq_zero_iff (l := symbols X), length_symbols]
    omega
  refine ⟨u, treeBitsOf o, by rw [exec_compress, hrun, outcome_ok], hcompress.status, hcompress.flagsEq, ?_, hdedup,
    fun hnil => ?_, fun hne => ?_, fun sym hsym => ?_, ?_, ?_, ?_, ?_, ?_, ?_⟩
  · rw [htotal]
    exact (BitVec.toNat_ofNat _ _).trans (Nat.mod_eq_of_lt (by omega))
  · cases o with
    | none => exact ⟨rfl, hholds⟩
    | some T => exact absurd (hsymbols.1 hnil) (Nat.ne_of_gt T.leaves_pos)
  · cases o with
    | none => exact absurd (hsymbols.2 rfl) hne
    | some T => exact ⟨T, hholds, rfl⟩
  · obtain ⟨q, hq, -⟩ := p.codes sym hsym
    rw [show readCt u sym = readCt (encoded ps b) sym by rw [hu]; rfl, hq]
    exact Option.some_ne_none q
  · rw [htotal, hleaf, hcode, show u.outBits = _ by rw [hu], fileFor, fileOf]
    simp only [padded, padding, List.append_assoc]
  all_goals rw [hframe]; rfl

/-- Settles O46: FT is determined by the input, the tree by FT, CT by the tree, and the file by these. -/
theorem compressDependsOnTheInputAlone : Obligations.CompressDependsOnTheInputAlone := by
  intro s₁ s₂ X hq₁ hq₂ hX₁ hX₂ hlen hout₁ hout₂
  obtain ⟨a₁, b₁, ps₁, o₁, u₁, hs₁, p₁, hrun₁, hu₁⟩ := compress_stages hq₁ hX₁ hlen
  obtain ⟨a₂, b₂, ps₂, o₂, u₂, hs₂, p₂, hrun₂, hu₂⟩ := compress_stages hq₂ hX₂ hlen
  have hft : a₁.ft = a₂.ft := ft_eq_of_readFt_eq hs₁.canonical hs₂.canonical fun sym =>
    BitVec.eq_of_toNat_eq ((hs₁.counts sym).trans (hs₂.counts sym).symm)
  have htree : SameTree b₁ b₂ := by
    obtain ⟨b, hb, hsame⟩ := (buildUnit_sameTree hft).outcome_next (t := b₁) (by rw [hs₁.build, outcome_ok])
    rw [hs₂.build, outcome_ok] at hb
    cases hb
    exact hsame
  have hps : ps₁ = ps₂ := by
    have hpaths := treePaths_congr (s := b₂) (t := b₁) htree.root htree.node
    rw [hs₁.paths, hs₂.paths] at hpaths
    exact Option.some.inj hpaths
  have hcodes : (encoded ps₁ b₁).codeOf = (encoded ps₂ b₂).codeOf := codeOf_congr (by rw [hps]; rfl)
  have hleaves : BitVec.ofNat 32 (leavesOf o₁) = BitVec.ofNat 32 (leavesOf o₂) :=
    p₁.leafCnt.symm.trans (htree.leafCnt.trans p₂.leafCnt)
  have hbits : treeBitsOf o₁ = treeBitsOf o₂ := by
    have hholds : (encoded ps₁ b₁).holds o₂ := 
      (holds_congr (s := encoded ps₂ b₂) (t := encoded ps₁ b₁) htree.root htree.node).2 p₂.tree
    obtain ⟨ts₁, hts₁, hbits₁⟩ := treeTokens_of_holds p₁.tree (p₁.leaves.trans (by decide))
    obtain ⟨ts₂, hts₂, hbits₂⟩ := treeTokens_of_holds hholds (p₂.leaves.trans (by decide))
    rw [← hbits₁, ← hbits₂, Option.some.inj (hts₁.symm.trans hts₂)]
  refine ⟨u₁, u₂, by rw [exec_compress, hrun₁, outcome_ok], by rw [exec_compress, hrun₂, outcome_ok], ?_, ?_, ?_, ?_⟩
  · rw [hu₁, hu₂, hout₁, hout₂]
    simp only [fileFor, fileOf, hcodes, hbits, hleaves]
  · rw [hu₁, hu₂]
    exact htree.node
  · rw [hu₁, hu₂, hps]
    rfl
  · rw [hu₁, hu₂]
    exact hs₁.ft.trans (hft.trans hs₂.ft.symm)

end Sys2Proof.Machine
end

section
/-! SUPPORT. DECOMPRESS on a file that ends too early (spec/45_decoder.md R148): in the header, in the tree, in the
body; with it the statement about truncated files. -/

namespace Sys2Proof.Machine

open Sys2Proof

/-- The CORE refused its input as corrupt. -/
def Refused (t : State) : Prop := t.isError = true ∧ t.err = 2#3

theorem refused_of_status {t : State} {g : Opcode} (h : t.status = statusWord .corruptStream g) : Refused t := by
  obtain ⟨herror, hcode, -⟩ := statusWord_fields .corruptStream g
  exact ⟨by rw [State.isError, h, herror], by rw [State.err, h, hcode]; rfl⟩

section

variable {s : State} {n : Word32} {o : Option CodeTree}

/-- The bits end in the header. -/
theorem decompressUnit_of_short_header (h : s.quiet) (hshort : s.bitsAhead.length < 64) :
    ∃ t, decompressUnit s = .ended t ∧ Refused t := by
  have hends := hdrRdUnit_ends (clearCore s)
  cases hrun : hdrRdUnit (clearCore s) with
  | ok a t =>
    obtain ⟨-, -, hlen⟩ := hends.of_ok hrun
    have hlen' : s.inBits.pos + 64 ≤ s.inBits.bits.length := hlen
    simp only [State.bitsAhead, List.length_drop] at hshort
    omega
  | ended t =>
    obtain ⟨e, hmem, u, -, rfl⟩ := hends.of_ended hrun
    rw [hdrRdFaults, ioFault_of_quiet (s := clearCore s) h, List.nil_append, List.mem_singleton] at hmem
    refine ⟨_, by rw [decompressUnit, clearUnit, bind_ok, hrun, bind_ended], refused_of_status (g := e.2) ?_⟩
    rw [hmem]
    rfl
  | stop e => rw [hrun] at hends; exact hends.elim

/-- The bits end in the tree. -/
theorem decompressUnit_of_truncated_tree {T : CodeTree} {part : Bits} (h : s.quiet) (hmax : T.leaves ≤ Config.maxLeaves)
    (hb : s.bitsAhead = fieldBits n ++ fieldBits (BitVec.ofNat 32 T.leaves) ++ part)
    (hshort : part.length < T.tokenBits.length) : ∃ t, decompressUnit s = .ended t ∧ Refused t := by
  let l : Word32 := BitVec.ofNat 32 T.leaves
  let s₁ : State := bitsRead 64 2 { clearCore s with flags := hrvMask, total := n, leafCnt := l }
  have hl : l.toNat = T.leaves := (BitVec.toNat_ofNat _ _).trans (Nat.mod_eq_of_lt (hmax.trans_lt (by decide)))
  have hb' : (clearCore s).bitsAhead = (fieldBits n ++ fieldBits l) ++ part := hb
  have hheader : hdrRdUnit (clearCore s) = .ok () s₁ :=
    hdrRdUnit_of_header h (hb'.trans (List.append_assoc _ _ _)) (hl ▸ hmax) fun e => by
      have hpos := T.leaves_pos
      rw [e] at hl
      exact absurd hl (Nat.ne_of_lt hpos)
  have hrest : s₁.bitsAhead = part := by
    have := bitsAhead_bitsRead hb' 2
    rwa [List.length_append, length_fieldBits, length_fieldBits] at this
  obtain ⟨t, htree, hstatus, -⟩ := treeRdUnit_of_truncated (s := s₁) (show hrvMask.getLsbD 4 = true by decide)
    (quiet_bitsRead (s := clearCore s) h 64 2) hl hmax (hrest ▸ hshort)
  exact ⟨t, by rw [decompressUnit, clearUnit, bind_ok, hheader, bind_ok, htree, bind_ended],
    refused_of_status (g := 0xA#4) hstatus⟩

/-- The bits end in a code word, with bytes still to come: no part of it is a code word (R109). -/
theorem decompressUnit_of_truncated_body {picks : List (Symbol × Bits)} {e : Symbol × Bits} {part : Bits} (h : s.quiet)
    (hmax : leavesOf o ≤ Config.maxLeaves) (hempty : leavesOf o = 0 → n = 0#32) (hpicks : ∀ d ∈ picks, d ∈ codesOf o)
    (he : e ∈ codesOf o) (hpart : part <+: e.2) (hne : part ≠ e.2) (hlen : 2 * picks.length < n.toNat)
    (hb : s.bitsAhead = headOf n o ++ (pickBits picks ++ part)) :
    ∃ t, decompressUnit s = .ended t ∧ Refused t := by
  obtain ⟨t, hload, ht⟩ := load_of_file h hmax hempty hb
  have hnokey : ∀ q, q <+: part → q ≠ [] → readDt t q = none := fun q hq _ => by
    refine Option.eq_none_iff_forall_ne_some.2 fun sym hsym => hne ?_
    have heq := eq_of_prefix_of_mem_codesOf ((ht.keys q sym).1 hsym) he (hq.trans hpart)
    exact hpart.eq_of_length (le_antisymm hpart.length_le (heq ▸ hq.length_le))
  obtain ⟨u, hbody, hstatus, -⟩ := decBodyUnit_of_truncated ht.hrv ht.ddv ht.quiet (ht.matchesEach hpicks)
    (by rw [ht.total]; exact hlen) (ht.bitsAhead hb) hnokey (hpart.length_le.trans (ht.depth e he))
  exact ⟨u, by rw [decompressUnit_eq_load_bind, hload, bind_ok, hbody], refused_of_status (g := 0xC#4) hstatus⟩

end

/-- A cut inside the bits of code words leaves whole code words and the beginning of one more. -/
theorem exists_take_pickBits {picks : List (Symbol × Bits)} {k : Nat} (hk : k < (pickBits picks).length) :
    ∃ before e after part, picks = before ++ e :: after ∧ (pickBits picks).take k = pickBits before ++ part ∧
      part <+: e.2 ∧ part ≠ e.2 := by
  induction picks generalizing k with
  | nil => exact absurd hk (Nat.not_lt_zero k)
  | cons d picks ih =>
    have hcons : pickBits (d :: picks) = d.2 ++ pickBits picks := rfl
    by_cases hin : k < d.2.length
    · refine ⟨[], d, picks, d.2.take k, rfl, ?_, List.take_prefix k d.2, fun heq => ?_⟩
      · rw [hcons, List.take_append_of_le_length hin.le]
        rfl
      · have := congrArg List.length heq
        rw [List.length_take] at this
        omega
    · rw [hcons, List.length_append] at hk
      obtain ⟨before, e, after, part, hsplit, htake, hpart, hne⟩ := ih (k := k - d.2.length) (by omega)
      refine ⟨d :: before, e, after, part, by rw [hsplit]; rfl, ?_, hpart, hne⟩
      rw [hcons, List.take_append, List.take_of_length_le (by omega), htake]
      exact (List.append_assoc _ _ _).symm

/-- A file of whole code words for its TOTAL, cut anywhere, is refused. -/
theorem decompressUnit_of_cut {s : State} {o : Option CodeTree} {picks : List (Symbol × Bits)} {n k : Nat} (h : s.quiet)
    (hn : n ≤ 2 ^ 32 - 1) (hmax : leavesOf o ≤ Config.maxLeaves) (hpicks : ∀ e ∈ picks, e ∈ codesOf o)
    (hlen : picks.length = (n + 1) / 2) (hk : k < (fileOf n o (pickBits picks)).length)
    (hb : s.bitsAhead = (fileOf n o (pickBits picks)).take k) : ∃ t, decompressUnit s = .ended t ∧ Refused t := by
  have htotal : (BitVec.ofNat 32 n).toNat = n := (BitVec.toNat_ofNat _ _).trans (Nat.mod_eq_of_lt (by omega))
  have hfile : fileOf n o (pickBits picks) = headOf (BitVec.ofNat 32 n) o ++ pickBits picks := rfl
  have hhead := length_headOf (BitVec.ofNat 32 n) o
  rw [hfile] at hk hb
  by_cases hheader : k < 64
  · refine decompressUnit_of_short_header h ?_
    rw [hb, List.length_take]
    omega
  by_cases htree : k < 64 + (treeBitsOf o).length
  · cases o with
    | none => exact absurd htree hheader
    | some T =>
      refine decompressUnit_of_truncated_tree (n := BitVec.ofNat 32 n) (T := T) (part := T.tokenBits.take (k - 64)) h
        hmax ?_ (by rw [List.length_take]; exact (min_le_left _ _).trans_lt (Nat.sub_lt_left_of_lt_add (by omega) htree))
      have hfields : (fieldBits (BitVec.ofNat 32 n) ++ fieldBits (BitVec.ofNat 32 T.leaves)).length = 64 := by simp
      rw [hb, List.take_append_of_le_length (by rw [hhead]; exact htree.le)]
      show List.take k ((fieldBits (BitVec.ofNat 32 n) ++ fieldBits (BitVec.ofNat 32 T.leaves)) ++ T.tokenBits) = _
      rw [List.take_append, hfields, List.take_of_length_le (by omega)]
  · rw [List.length_append, hhead] at hk
    obtain ⟨before, e, after, part, hsplit, htake, hpart, hne⟩ :=
      exists_take_pickBits (picks := picks) (k := k - (64 + (treeBitsOf o).length)) (by omega)
    rw [hsplit] at hpicks hlen
    have hemem : e ∈ codesOf o := hpicks e (by simp)
    refine decompressUnit_of_truncated_body (n := BitVec.ofNat 32 n) (picks := before) (e := e) h hmax
      (fun hzero => ?_) (fun d hd => hpicks d (List.mem_append_left _ hd)) hemem hpart hne ?_ ?_
    · rw [← length_codesOf, List.length_eq_zero_iff] at hzero
      exact absurd (hzero ▸ hemem) List.not_mem_nil
    · rw [htotal]
      simp only [List.length_append, List.length_cons] at hlen
      omega
    · rw [hb, List.take_append, hhead, List.take_of_length_le (by omega), htake]

/-- Settles O53: without its last byte the file lacks at least one bit of what comes before the padding. -/
theorem truncatedFileIsDetected : Obligations.TruncatedFileIsDetected := by
  intro s t u X hs hX hlen hout hcompress hu hin
  obtain ⟨t', o, file, hrun, hmax, hcodes, hfile, hout'⟩ := compressUnit_quiet hs hX hlen
  cases hcompress.symm.trans (congrArg Flow.outcome hrun)
  rw [hout, List.nil_append, ← pickBits_coded] at hfile
  have hpicks : ∀ e ∈ coded t (symbols X), e ∈ codesOf o := fun e he => by
    obtain ⟨x, hx, rfl⟩ := List.mem_map.1 he
    exact hcodes x hx
  have hpad : (padding file.length).length < 8 := by
    rw [padding, List.length_replicate]
    omega
  have hpos : 64 ≤ file.length := by
    rw [hfile]
    simp [fileOf]
    omega
  have hcut : t.outBits.length - 8 < file.length := by
    rw [hout', List.length_append]
    omega
  have hb : u.bitsAhead = (fileOf X.length o (pickBits (coded t (symbols X)))).take (t.outBits.length - 8) := by
    have htake : t.outBits.take (t.outBits.length - 8) = file.take (t.outBits.length - 8) := by
      rw [← List.take_append_of_le_length (l₂ := padding file.length) hcut.le, ← hout']
    rw [State.bitsAhead, hin, ← hfile]
    exact htake
  obtain ⟨v, hv, hrefused⟩ := decompressUnit_of_cut hu hlen hmax hpicks (by rw [coded, List.length_map, length_symbols])
    (hfile ▸ hcut) hb
  exact ⟨v, by rw [exec_decompress, hv, outcome_ended], hrefused⟩

end Sys2Proof.Machine
end

section
/-! SUPPORT. No command looks at what the host does next (spec/46_control.md R155): with another list of host events
each unit does the same. -/

namespace Sys2Proof.Machine

open Sys2Proof

/-! ### Pieces of a command that do not look at the host's list -/

/-- The state with this list of host events. -/
def setHost (h : List HostEvent) (s : State) : State := { s with host := h }

/-- The update does not look at the host's list, and leaves it. -/
def Aloof (g : State → State) : Prop := ∀ h s, g (setHost h s) = setHost h (g s)

/-- The piece of a command does not look at the host's list, and leaves it, however it ends. -/
def Blind {α : Type} (f : State → Flow α) : Prop := ∀ h s, f (setHost h s) = (f s).atEnd (setHost h)

section

variable {α β : Type} {f f' : State → Flow α} {g : State → State}

theorem Blind.bind {k : α → State → Flow β} (hf : Blind f) (hk : ∀ a, Blind (k a)) : Blind fun s => (f s).bind k := by
  intro h s
  simp only [hf h s]
  cases f s with
  | ok a t => exact hk a h t
  | ended t => rfl
  | stop e => rfl

theorem Blind.atEnd (hf : Blind f) (hg : Aloof g) : Blind fun s => (f s).atEnd g := by
  intro h s
  simp only [hf h s]
  cases f s with
  | ok a t => exact congrArg (Flow.ok a) (hg h t)
  | ended t => exact congrArg Flow.ended (hg h t)
  | stop e => rfl

theorem Blind.comp (hf : Blind f) (hg : Aloof g) : Blind fun s => f (g s) := by
  intro h s
  simp only [hg h s]
  exact hf h (g s)

theorem Blind.ok {a : State → α} (ha : ∀ h s, a (setHost h s) = a s) (hg : Aloof g) :
    Blind fun s => Flow.ok (a s) (g s) := by
  intro h s
  simp only [ha h s, hg h s, atEnd_ok]

theorem Blind.ended (hg : Aloof g) : Blind fun s => (Flow.ended (g s) : Flow α) := by
  intro h s
  simp only [hg h s, atEnd_ended]

theorem Blind.stop (e : Fault) : Blind fun _ => (Flow.stop e : Flow α) := fun _ _ => rfl

theorem Blind.ite {c : State → Prop} [∀ s, Decidable (c s)] (hc : ∀ h s, c (setHost h s) ↔ c s) (hf : Blind f)
    (hf' : Blind f') : Blind fun s => if c s then f s else f' s := by
  intro h s
  simp only [hc h s]
  split
  · exact hf h s
  · exact hf' h s

/-- A value read from elsewhere in the state may be used. -/
theorem Blind.read {φ : State → β} {F : β → State → Flow α} (hφ : ∀ h s, φ (setHost h s) = φ s)
    (hF : ∀ b, Blind (F b)) :
    Blind fun s => F (φ s) s := by
  intro h s
  simp only [hφ h s]
  exact hF (φ s) h s

theorem Aloof.comp {g' : State → State} (hg' : Aloof g') (hg : Aloof g) : Aloof fun s => g' (g s) := fun h s => by
  simp only [hg h s, hg' h (g s)]

end

/-! ### Stream calls, prerequisites and fault entry -/

theorem aloof_raise (k : ErrKind) (g : Opcode) : Aloof (raise k g) := fun _ _ => rfl

theorem askIo_setHost (h : List HostEvent) (s : State) :
    askIo (setHost h s) = ((askIo s).1, setHost h (askIo s).2) := by
  cases hs : s.ioAnswers <;> simp [askIo, setHost, setIo, hs]

theorem blind_ioCall (g : Opcode) : Blind (ioCall g) := by
  have hask : Aloof fun s => (askIo s).2 := fun h s => congrArg Prod.snd (askIo_setHost h s)
  exact .ite (c := fun s => (askIo s).1 = true) (fun h s => by rw [askIo_setHost])
    (.ended ((aloof_raise _ _).comp hask)) (.ok (fun _ _ => rfl) hask)

theorem blind_rdByte (g : Opcode) : Blind (rdByte g) :=
  (blind_ioCall g).bind fun _ h s => by
    simp only [show (setHost h s).inBytes = s.inBytes from rfl]
    cases s.inBytes.bytes[s.inBytes.pos]? <;> rfl

theorem blind_rdBits (g : Opcode) (n : Nat) : Blind (rdBits g n) :=
  (blind_ioCall g).bind fun _ =>
    .ite (fun _ _ => Iff.rfl) (.ended (aloof_raise _ _)) (.ok (fun _ _ => rfl) fun _ _ => rfl)

theorem blind_wrBits (g : Opcode) {n : Nat} (v : BitVec n) : Blind (wrBits g v) :=
  (blind_ioCall g).bind fun _ => .ok (fun _ _ => rfl) fun _ _ => rfl

theorem blind_wrByte (g : Opcode) (b : Byte) : Blind (wrByte g b) :=
  (blind_ioCall g).bind fun _ => .ok (fun _ _ => rfl) fun _ _ => rfl

theorem blind_closeOut (g : Opcode) : Blind (closeOut g) :=
  (blind_ioCall g).bind fun _ => .ok (fun _ _ => rfl) fun _ _ => rfl

theorem blind_wrPath (g : Opcode) (p : Bits) : Blind (wrPath g p) := by
  induction p with
  | nil => exact .ok (fun _ _ => rfl) fun _ _ => rfl
  | cons b p ih => exact (blind_wrBits g _).bind fun _ => ih

/-- A command behind a prerequisite. -/
theorem blind_require {α : Type} {c : State → Bool} {g : Opcode} {k : Unit → State → Flow α}
    (hc : ∀ h s, c (setHost h s) = c s) (hk : ∀ a, Blind (k a)) : Blind fun s => (require (c s) g s).bind k :=
  .bind (.read (F := fun b => require b g) hc fun b => by
    cases b with
    | false => exact .ended (aloof_raise .sequenceError g)
    | true => exact .ok (fun _ _ => rfl) fun _ _ => rfl) hk

/-! ### The decoder's units -/

theorem blind_checkHeader : Blind checkHeader :=
  .ite (fun _ _ => Iff.rfl) (.ended (aloof_raise _ _))
    (.ite (fun _ _ => Iff.rfl) (.ended (aloof_raise _ _)) (.ok (fun _ _ => rfl) fun _ _ => rfl))

theorem blind_hdrRdUnit : Blind hdrRdUnit :=
  .bind ((blind_rdBits 0x9#4 32).comp fun _ _ => rfl) fun _ =>
    .bind ((blind_rdBits 0x9#4 32).comp fun _ _ => rfl) fun _ => blind_checkHeader.comp fun _ _ => rfl

theorem blind_allocNode (n : Node) : Blind (allocNode n) :=
  .ite (fun _ _ => Iff.rfl) (.ok (fun _ _ => rfl) fun _ _ => rfl) (.stop _)

theorem blind_performToken (t : Token) : Blind (performToken t) := by
  cases t with
  | leaf sym =>
    exact .ite (fun _ _ => Iff.rfl) (.ended (aloof_raise _ _))
      (.bind (blind_allocNode _) fun _ => .ok (fun _ _ => rfl) fun _ _ => rfl)
  | merge =>
    refine .ite (fun _ _ => Iff.rfl) (.ended (aloof_raise _ _)) fun h s => ?_
    simp only [show (setHost h s).stack = s.stack from rfl]
    match s.stack with
    | b :: a :: below =>
      exact (Blind.bind ((blind_allocNode (.internal 0#48 a b)).comp (g := fun s => { s with stack := below })
        fun _ _ => rfl) fun _ => .ok (fun _ _ => rfl) fun _ _ => rfl) h s
    | [] => rfl
    | [_] => rfl

theorem blind_readToken : Blind readToken :=
  .bind (blind_rdBits 0xA#4 1) fun f => by
    by_cases hf : f = 1#1
    · simp only [if_pos hf]
      exact .ite (fun _ _ => Iff.rfl) (.ended (aloof_raise _ _))
        (.bind (blind_rdBits 0xA#4 16) fun _ => .ok (fun _ _ => rfl) fun _ _ => rfl)
    · simp only [if_neg hf]
      exact .ok (fun _ _ => rfl) fun _ _ => rfl

theorem blind_tokenLoop (n : Nat) : Blind (tokenLoop n) := by
  induction n with
  | zero => exact .ok (fun _ _ => rfl) fun _ _ => rfl
  | succ n ih =>
    exact .ite (fun _ _ => Iff.rfl) (.ok (fun _ _ => rfl) fun _ _ => rfl)
      (.bind blind_readToken fun t => .bind (blind_performToken t) fun _ => ih)

theorem blind_treeRdFinish : Blind treeRdFinish := by
  intro h s
  simp only [treeRdFinish, show (setHost h s).stack = s.stack from rfl]
  cases s.stack <;> rfl

theorem blind_treeRdTokens : Blind treeRdTokens := by
  have hloop : Blind fun s => (tokenLoop (s.remL.toNat + s.remI.toNat) s).bind fun _ s => treeRdFinish s :=
    .bind (.read (φ := fun s => s.remL.toNat + s.remI.toNat) (F := tokenLoop) (fun _ _ => rfl) blind_tokenLoop)
      fun _ => blind_treeRdFinish
  exact hloop.comp (g := fun s =>
    { s with remL := s.leafCnt.setWidth 17, remI := (s.leafCnt - 1#32).setWidth 17 }) fun _ _ => rfl

theorem blind_treeRdUnit : Blind treeRdUnit := by
  have htree : Blind fun s => if s.leafCnt = 0#32 then .ok () (setFlags trvMask { s with root := none })
      else treeRdTokens s :=
    .ite (fun _ _ => Iff.rfl) (.ok (fun _ _ => rfl) fun _ _ => rfl) blind_treeRdTokens
  exact blind_require (c := State.hrv) (fun _ _ => rfl) fun _ =>
    (htree.comp (g := treeRdStart) fun _ _ => rfl).atEnd fun _ _ => rfl

theorem treePaths_setHost (h : List HostEvent) (s : State) : treePaths (setHost h s) = treePaths s :=
  treePaths_congr rfl rfl

theorem blind_pathsOf : Blind pathsOf :=
  .read (φ := treePaths) (F := fun o s => match o with
    | none => .stop .walkDiverges
    | some ps => .ok ps s) treePaths_setHost fun o => by
      cases o with
      | none => exact .stop _
      | some ps => exact .ok (fun _ _ => rfl) fun _ _ => rfl

theorem aloof_fillDt (ps : List (Symbol × Bits)) : Aloof (fillDt ps) := by
  induction ps with
  | nil => exact fun _ _ => rfl
  | cons e ps ih => exact fun h s => ih h (writeDt e.2 e.1 s)

theorem aloof_fillCt (ps : List (Symbol × Bits)) : Aloof (fillCt ps) := by
  induction ps with
  | nil => exact fun _ _ => rfl
  | cons e ps ih => exact fun h s => ih h (writeCt e.1 e.2 s)

theorem blind_dictDecUnit : Blind dictDecUnit :=
  blind_require (c := State.trv) (fun _ _ => rfl) fun _ =>
    .bind (blind_pathsOf.comp (g := fun s => { clearFlags ddvMask s with dt := [] }) fun _ _ => rfl) fun ps =>
      .ok (fun _ _ => rfl) (Aloof.comp (g' := fun s => setFlags ddvMask (setMaxDepth s)) (fun _ _ => rfl)
        (aloof_fillDt ps))

theorem blind_wrBytes (g : Opcode) (bs : List Byte) : Blind (wrBytes g bs) := by
  induction bs with
  | nil => exact .ok (fun _ _ => rfl) fun _ _ => rfl
  | cons b bs ih => exact .bind (blind_wrByte g b) fun _ => ih

theorem blind_emitSymbol (sym : Symbol) : Blind (emitSymbol sym) :=
  .read (φ := fun s => symbolBytes s.rem.toNat sym)
    (F := fun out s => (wrBytes 0xC#4 out s).bind fun _ s =>
      .ok () { s with rem := s.rem - BitVec.ofNat 32 out.length, pathBuf := [] })
    (fun _ _ => rfl) fun out => .bind (blind_wrBytes _ out) fun _ => .ok (fun _ _ => rfl) fun _ _ => rfl

theorem blind_decBodyLoop (n : Nat) : Blind (decBodyLoop n) := by
  induction n with
  | zero => exact .stop _
  | succ n ih =>
    have hmatch : Blind fun s => match readDt s s.pathBuf with
        | some sym => (emitSymbol sym s).bind fun _ s => decBodyLoop n s
        | none =>
          if s.maxDepth.toNat < s.pathBuf.length then .ended (raise .corruptStream 0xC#4 s) else decBodyLoop n s :=
      .read (φ := fun s => readDt s s.pathBuf) (F := fun o s => match o with
        | some sym => (emitSymbol sym s).bind fun _ s => decBodyLoop n s
        | none =>
          if s.maxDepth.toNat < s.pathBuf.length then .ended (raise .corruptStream 0xC#4 s) else decBodyLoop n s)
        (fun _ _ => rfl) fun o => by
          cases o with
          | none => exact .ite (fun _ _ => Iff.rfl) (.ended (aloof_raise _ _)) ih
          | some sym => exact .bind (blind_emitSymbol sym) fun _ => ih
    exact .ite (fun _ _ => Iff.rfl) (.ok (fun _ _ => rfl) fun _ _ => rfl)
      (.bind (blind_rdBits 0xC#4 1) fun b =>
        hmatch.comp (g := fun s => { s with pathBuf := s.pathBuf ++ fieldBits b }) fun _ _ => rfl)

theorem blind_decBodyUnit : Blind decBodyUnit :=
  blind_require (c := fun s => s.hrv && s.ddv) (fun _ _ => rfl) fun _ =>
    .atEnd (.read (φ := fun s => s.inBits.bits.length - s.inBits.pos + 1)
      (F := fun n s => decBodyLoop n { s with rem := s.total, pathBuf := [] }) (fun _ _ => rfl) fun n =>
        (blind_decBodyLoop n).comp fun _ _ => rfl) fun _ _ => rfl

/-! ### The encoder's units -/

theorem aloof_rewind : Aloof rewind := by
  intro h s
  cases hs : s.inBytes.passes <;> simp [rewind, setHost, seekBytes, hs]

theorem blind_countByte : Blind countByte :=
  .ite (fun _ _ => Iff.rfl) (.ended (aloof_raise _ _)) (.ok (fun _ _ => rfl) fun _ _ => rfl)

theorem blind_analyzeLoop (n : Nat) : Blind (analyzeLoop n) := by
  induction n with
  | zero => exact .stop _
  | succ n ih =>
    refine .bind (blind_rdByte 0x2#4) fun b₁ => ?_
    cases b₁ with
    | none => exact .ok (fun _ _ => rfl) fun _ _ => rfl
    | some b₁ =>
      refine .bind blind_countByte fun _ => .bind (blind_rdByte 0x2#4) fun b₂ => ?_
      cases b₂ with
      | none => exact .ok (fun _ _ => rfl) fun _ _ => rfl
      | some b₂ => exact .bind blind_countByte fun _ => ih.comp fun _ _ => rfl

theorem blind_analyzeUnit : Blind analyzeUnit := by
  have hloop : Blind fun s =>
      (analyzeLoop (s.inBytes.bytes.length + 1) s).bind fun _ s => .ok () (setFlags favMask s) :=
    .bind (.read (φ := fun s => s.inBytes.bytes.length + 1) (F := analyzeLoop) (fun _ _ => rfl) blind_analyzeLoop)
      fun _ => .ok (fun _ _ => rfl) fun _ _ => rfl
  exact hloop.comp (g := analyzeStart) fun h s => aloof_rewind h { s with flags := 0#5, ft := [], total := 0#32 }

theorem leastFrom_setHost (h : List HostEvent) (s : State) (m : NodeIdx) (is : List NodeIdx) :
    leastFrom (setHost h s) m is = leastFrom s m is := by
  induction is generalizing m with
  | nil => rfl
  | cons i is ih => exact ih _

theorem blind_pqExtractMin : Blind pqExtractMin := by
  intro h s
  simp only [pqExtractMin, show (setHost h s).pq = s.pq from rfl, leastFrom_setHost]
  cases s.pq <;> rfl

theorem blind_mergeStep : Blind mergeStep :=
  .bind blind_pqExtractMin fun a => .bind blind_pqExtractMin fun b =>
    .bind (.read (φ := fun s => .internal (weightOf s a + weightOf s b) a b) (F := allocNode) (fun _ _ => rfl)
      blind_allocNode) fun _ => .ok (fun _ _ => rfl) fun _ _ => rfl

theorem blind_mergeLoop (n : Nat) : Blind (mergeLoop n) := by
  induction n with
  | zero => exact .ok (fun _ _ => rfl) fun _ _ => rfl
  | succ n ih =>
    exact .ite (fun _ _ => Iff.rfl) (.ok (fun _ _ => rfl) fun _ _ => rfl) (.bind blind_mergeStep fun _ => ih)

theorem blind_seedLeaves (ft : Table Symbol Word32) : Blind (seedLeaves ft) := by
  induction ft with
  | nil => exact .ok (fun _ _ => rfl) fun _ _ => rfl
  | cons e ft ih =>
    exact .ite (fun _ _ => Iff.rfl) ih (.bind (blind_allocNode _) fun _ => ih.comp fun _ _ => rfl)

theorem blind_buildTree : Blind buildTree := by
  have hmerge : Blind fun s => if s.leafCnt = 0#32 then .ok () { s with root := none }
      else (mergeLoop s.pq.length s).bind fun _ s =>
        (pqExtractMin s).bind fun r s => .ok () { s with root := some r } :=
    .ite (fun _ _ => Iff.rfl) (.ok (fun _ _ => rfl) fun _ _ => rfl)
      (.bind (.read (φ := fun s => s.pq.length) (F := mergeLoop) (fun _ _ => rfl) blind_mergeLoop) fun _ =>
        .bind blind_pqExtractMin fun _ => .ok (fun _ _ => rfl) fun _ _ => rfl)
  exact hmerge.comp (g := fun s => { s with leafCnt := s.nCount.setWidth 32 }) fun _ _ => rfl

theorem blind_buildUnit : Blind buildUnit := by
  have hseed : Blind fun s =>
      (seedLeaves s.ft s).bind fun _ s => (buildTree s).bind fun _ s => .ok () (setFlags trvMask s) :=
    .bind (.read (φ := fun s => s.ft) (F := seedLeaves) (fun _ _ => rfl) blind_seedLeaves) fun _ =>
      .bind blind_buildTree fun _ => .ok (fun _ _ => rfl) fun _ _ => rfl
  exact (hseed.comp (g := buildStart) fun _ _ => rfl).atEnd fun _ _ => rfl

theorem blind_dictEncUnit : Blind dictEncUnit :=
  blind_require (c := State.trv) (fun _ _ => rfl) fun _ =>
    .bind (blind_pathsOf.comp (g := fun s => { clearFlags devMask s with ct := [] }) fun _ _ => rfl) fun ps =>
      .ok (fun _ _ => rfl) (Aloof.comp (g' := setFlags devMask) (fun _ _ => rfl) (aloof_fillCt ps))

theorem blind_hdrWrUnit : Blind hdrWrUnit :=
  blind_require (c := fun s => s.fav && s.trv) (fun _ _ => rfl) fun _ =>
    .bind
      (.read (φ := fun s => s.total) (F := fun n => wrBits 0x5#4 n) (fun _ _ => rfl) fun n => blind_wrBits _ n) fun _ =>
      .read (φ := fun s => s.leafCnt) (F := fun n => wrBits 0x5#4 n) (fun _ _ => rfl) fun n => blind_wrBits _ n

theorem serialize_setHost (h : List HostEvent) (s : State) (n : Nat) (i : NodeIdx) :
    serialize (setHost h s) n i = serialize s n i := by
  induction n generalizing i with
  | zero => rfl
  | succ n ih => simp only [serialize, ih, show readNode (setHost h s) i = readNode s i from rfl]

theorem treeTokens_setHost (h : List HostEvent) (s : State) : treeTokens (setHost h s) = treeTokens s := by
  simp only [treeTokens, serialize_setHost, show (setHost h s).root = s.root from rfl]

theorem blind_writeTokens (ts : List Token) : Blind (writeTokens ts) := by
  induction ts with
  | nil => exact .ok (fun _ _ => rfl) fun _ _ => rfl
  | cons t ts ih =>
    refine .bind ?_ fun _ => ih
    cases t with
    | leaf sym => exact .bind (blind_wrBits _ _) fun _ => blind_wrBits _ _
    | merge => exact blind_wrBits _ _

theorem blind_treeWrUnit : Blind treeWrUnit :=
  blind_require (c := State.trv) (fun _ _ => rfl) fun _ =>
    .read (φ := treeTokens) (F := fun o s => match o with
      | none => .stop .walkDiverges
      | some ts => writeTokens ts s) treeTokens_setHost fun o => by
        cases o with
        | none => exact .stop _
        | some ts => exact blind_writeTokens ts

theorem blind_emitCode (sym : Symbol) : Blind (emitCode sym) :=
  .read (φ := fun s => readCt s sym) (F := fun o s => match o with
    | none => .ended (raise .lookupMiss 0x7#4 s)
    | some p => wrPath 0x7#4 p s) (fun _ _ => rfl) fun o => by
      cases o with
      | none => exact .ended (aloof_raise _ _)
      | some p => exact blind_wrPath _ p

theorem blind_encBodyLoop (n : Nat) : Blind (encBodyLoop n) := by
  induction n with
  | zero => exact .stop _
  | succ n ih =>
    refine .bind (blind_rdByte 0x7#4) fun b₁ => ?_
    cases b₁ with
    | none => exact .ok (fun _ _ => rfl) fun _ _ => rfl
    | some b₁ =>
      refine .bind (blind_rdByte 0x7#4) fun b₂ => ?_
      cases b₂ with
      | none => exact blind_emitCode _
      | some b₂ => exact .bind (blind_emitCode _) fun _ => ih

theorem blind_encBodyUnit : Blind encBodyUnit :=
  blind_require (c := fun s => s.fav && s.dev) (fun _ _ => rfl) fun _ =>
    Blind.comp (g := rewind) (.read (φ := fun s => s.inBytes.bytes.length + 1) (F := encBodyLoop) (fun _ _ => rfl)
      blind_encBodyLoop) aloof_rewind

end Sys2Proof.Machine
end

section
/-! SUPPORT. Unit commands issued one after the other (spec/46_control.md R155): the host's words run the units in
order, and after a fault the words left are ignored (R151); with these the statements about COMPRESS and DECOMPRESS. -/

namespace Sys2Proof.Machine

open Sys2Proof

/-! ### How a unit leaves the CORE -/

/-- The piece leaves STATUS as it was, or reports a fault; in between the sequencer is idle. -/
def Settles (s : State) (m : Flow Unit) : Prop :=
  m.Ends (fun _ t => t.status = s.status ∧ (t.phase = s.phase ∨ t.phase = .idle))
    (fun t => t.isError = true ∧ t.phase = .idle) True

theorem Raised.settled {faults : List (ErrKind × Opcode)} {R : State → Prop} {t : State} (h : Raised faults R t) :
    t.isError = true ∧ t.phase = .idle := by
  obtain ⟨e, -, u, -, rfl⟩ := h
  exact ⟨raise_isError e.1 e.2 u, rfl⟩

section

variable {s : State}

theorem settles_of_require {c : Bool} {g : Opcode} {k : Unit → State → Flow Unit}
    (hrun : c = true → Settles s ((require c g s).bind k)) : Settles s ((require c g s).bind k) := by
  cases hc : c with
  | false =>
    rw [require_of_false rfl, bind_ended]
    exact ⟨raise_isError _ _ _, rfl⟩
  | true => exact hc ▸ hrun hc

theorem settles_analyzeUnit (s : State) : Settles s (analyzeUnit s) :=
  (analyzeUnit_ends s).imp (fun _ _ ht => ⟨by rw [ht.frame], .inl (by rw [ht.frame])⟩)
    (fun _ ht => ht.elim Raised.settled Raised.settled) False.elim

theorem settles_buildUnit (s : State) : Settles s (buildUnit s) :=
  (buildUnit_ends s).imp (fun _ _ ht => by rw [BuildKept] at ht; exact ⟨by rw [ht], .inl (by rw [ht])⟩)
    (fun _ ht => ht.elim) id

theorem settles_dictEncUnit (s : State) : Settles s (dictEncUnit s) := by
  rcases dictEncUnit_cases s with ⟨-, hrun⟩ | ⟨-, ps, -, hrun⟩ | ⟨-, -, hrun⟩ <;> rw [hrun]
  · exact ⟨raise_isError _ _ _, rfl⟩
  · exact ⟨rfl, .inl rfl⟩
  · trivial

theorem settles_dictDecUnit (s : State) : Settles s (dictDecUnit s) := by
  rcases dictDecUnit_cases s with ⟨-, hrun⟩ | ⟨-, ps, -, hrun⟩ | ⟨-, -, hrun⟩ <;> rw [hrun]
  · exact ⟨raise_isError _ _ _, rfl⟩
  · exact ⟨rfl, .inl rfl⟩
  · trivial

theorem Wrote.settled {t : State} (h : Wrote s t) : t.status = s.status ∧ (t.phase = s.phase ∨ t.phase = .idle) :=
  ⟨h.status, .inl (by rw [h.1])⟩

theorem settles_hdrWrUnit (s : State) : Settles s (hdrWrUnit s) :=
  settles_of_require fun hc =>
    (hdrWrUnit_ends hc).imp (fun _ _ ht => ht.settled) (fun _ ht => ht.settled) False.elim

theorem settles_treeWrUnit (s : State) : Settles s (treeWrUnit s) :=
  settles_of_require fun hc =>
    (treeWrUnit_ends hc).imp (fun _ _ ht => ht.settled) (fun _ ht => ht.settled) fun _ => trivial

theorem settles_encBodyUnit (s : State) : Settles s (encBodyUnit s) :=
  settles_of_require fun hc =>
    (encBodyUnit_ends hc).imp (fun _ _ ⟨_, ht⟩ => ⟨by rw [ht.frame], .inl (by rw [ht.frame])⟩) (fun _ ht => ht.settled)
      False.elim

theorem settles_hdrRdUnit (s : State) : Settles s (hdrRdUnit s) :=
  (hdrRdUnit_ends s).imp (fun _ _ ht => ⟨by rw [ht.1.frame], .inl (by rw [ht.1.frame])⟩) (fun _ ht => ht.settled)
    False.elim

theorem settles_treeRdUnit (s : State) : Settles s (treeRdUnit s) :=
  settles_of_require fun hc =>
    (treeRdUnit_ends hc).imp (fun _ _ ht => ⟨by rw [ht.frame], ht.phase⟩) (fun _ ⟨_, hu, ht⟩ => ht ▸ hu.settled) id

theorem settles_decBodyUnit (s : State) : Settles s (decBodyUnit s) :=
  settles_of_require fun hc =>
    (decBodyUnit_ends hc).imp (fun _ _ ht => ⟨by rw [ht.frame], .inl (by rw [ht.frame])⟩)
      (fun _ ⟨_, hu, ht⟩ => ht ▸ (show Raised (decBodyFaults s) (DecBodyKept s) _ from hu).settled)
      False.elim

end

/-! ### The host's words run the units -/

/-- The word `w` of the host runs the unit `f`. -/
structure UnitCommand (w : CmdWord) (f : State → Flow Unit) : Prop where
  word : w ≠ 0#64
  runs : ∃ i, decode (.command w) = .ok i ∧ ∀ s, exec i s = (f s).outcome
  blind : Blind f
  settles : ∀ s, Settles s (f s)

/-- Units one after the other, as COMPRESS and DECOMPRESS sequence them. -/
def chain : List (CmdWord × (State → Flow Unit)) → State → Flow Unit
  | [], s => .ok () s
  | c :: cs, s => (c.2 s).bind fun _ s => chain cs s

/-- The words of the units. -/
def wordsOf (cs : List (CmdWord × (State → Flow Unit))) : List HostEvent := cs.map fun c => .command c.1

section Run

variable {M : Host.Core} {k : Nat} {s t : M.State}

theorem run_of_next (h : M.step s = .next t) : M.run (k + 1) s = M.run k t := by rw [Host.Core.run, h]

theorem run_of_fault {r : M.Fault} (h : M.step s = .fault r) : M.run (k + 1) s = .fault r := by rw [Host.Core.run, h]

theorem run_of_refused {r : M.Refusal} (h : M.step s = .refused r) : M.run (k + 1) s = .refused r := by
  rw [Host.Core.run, h]

theorem run_add (h : M.run k s = .next t) (m : Nat) : M.run (k + m) s = M.run m t := by
  induction k generalizing s with
  | zero =>
    cases h
    rw [Nat.zero_add]
  | succ k ih =>
    rw [Nat.succ_add]
    cases hstep : M.step s with
    | next u =>
      rw [run_of_next hstep] at h ⊢
      exact ih h
    | fault r => rw [run_of_fault hstep] at h; cases h
    | refused r => rw [run_of_refused hstep] at h; cases h

end Run

/-- `k` steps of the CORE. -/
def steps (k : Nat) (s : State) : Host.Outcome State Fault Refusal := Sys2Proof.core.run k s

theorem steps_of_next {k : Nat} {s t : State} (h : step s = .next t) : steps (k + 1) s = steps k t :=
  run_of_next (M := Sys2Proof.core) h

theorem steps_of_fault {k : Nat} {s : State} {r : Fault} (h : step s = .fault r) : steps (k + 1) s = .fault r :=
  run_of_fault (M := Sys2Proof.core) h

theorem steps_add {k : Nat} {s t : State} (h : steps k s = .next t) (m : Nat) : steps (k + m) s = steps m t :=
  run_add (M := Sys2Proof.core) h m

section

variable {cs : List (CmdWord × (State → Flow Unit))} {s : State}

/-- In ERROR the words left are taken off the list and have no effect (R151). -/
theorem steps_of_isError (hcs : ∀ c ∈ cs, UnitCommand c.1 c.2) (rest : List HostEvent) (hphase : s.phase = .idle)
    (herr : s.isError = true) : steps cs.length (setHost (wordsOf cs ++ rest) s) = .next (setHost rest s) := by
  induction cs with
  | nil => rfl
  | cons c cs ih =>
    obtain ⟨hc, hcs⟩ := List.forall_mem_cons.1 hcs
    refine (steps_of_next (t := setHost (wordsOf cs ++ rest) s) ?_).trans (ih hcs)
    exact step_of_dispatchWord_settled (w := c.1) hphase rfl (dispatchWord_of_isError herr hc.word)

/-- From READY the host's words do what the units do one after the other, faults included. -/
theorem steps_eq_chain (hcs : ∀ c ∈ cs, UnitCommand c.1 c.2) (rest : List HostEvent) (hphase : s.phase = .idle)
    (hready : s.isError = false) :
    steps cs.length (setHost (wordsOf cs ++ rest) s) = ((chain cs s).atEnd (setHost rest)).outcome := by
  induction cs generalizing s with
  | nil => rfl
  | cons c cs ih =>
    obtain ⟨hc, hcs⟩ := List.forall_mem_cons.1 hcs
    obtain ⟨i, hdecode, hexec⟩ := hc.runs
    have hsettles := hc.settles s
    have hstep : step (setHost (wordsOf (c :: cs) ++ rest) s) =
        ((c.2 s).atEnd (setHost (wordsOf cs ++ rest))).outcome := by
      rw [← hc.blind, ← hexec]
      exact step_of_command (w := c.1) hphase rfl (.inl hready) hdecode
    rw [List.length_cons, chain]
    cases hrun : c.2 s with
    | ok a t =>
      rw [hrun] at hstep
      obtain ⟨hstatus, ht⟩ := hsettles.of_ok hrun
      refine (steps_of_next hstep).trans (ih hcs (ht.elim (fun e => e.trans hphase) id) ?_)
      rw [State.isError, hstatus]
      exact hready
    | ended t =>
      rw [hrun] at hstep
      obtain ⟨herr, ht⟩ := hsettles.of_ended hrun
      exact (steps_of_next hstep).trans (steps_of_isError hcs rest ht herr)
    | stop e =>
      rw [hrun] at hstep
      exact steps_of_fault hstep

theorem blind_chain (hcs : ∀ c ∈ cs, UnitCommand c.1 c.2) : Blind (chain cs) := by
  induction cs with
  | nil => exact .ok (fun _ _ => rfl) fun _ _ => rfl
  | cons c cs ih =>
    obtain ⟨hc, hcs⟩ := List.forall_mem_cons.1 hcs
    exact hc.blind.bind fun _ => ih hcs

/-- Completed units leave the sequencer idle. -/
theorem phase_of_chain {t : State} (hcs : ∀ c ∈ cs, UnitCommand c.1 c.2) (hphase : s.phase = .idle)
    (h : chain cs s = .ok () t) : t.phase = .idle := by
  induction cs generalizing s with
  | nil => cases h; exact hphase
  | cons c cs ih =>
    obtain ⟨hc, hcs⟩ := List.forall_mem_cons.1 hcs
    have hsettles := hc.settles s
    rw [chain] at h
    cases hrun : c.2 s with
    | ok a u =>
      rw [hrun] at h
      exact ih hcs ((hsettles.of_ok hrun).2.elim (fun e => e.trans hphase) id) h
    | ended u => rw [hrun] at h; cases h
    | stop e => rw [hrun] at h; cases h

theorem bind_ok_self (m : Flow Unit) : (m.bind fun _ s => .ok () s) = m := by cases m <;> rfl

theorem clearCore_isError (s : State) : (clearCore s).isError = false := by
  show (0x00#8).getLsbD 0 = false
  decide

end

/-! ### DECOMPRESS and its units (R155) -/

/-- The unit commands of a decompression. -/
def decoderUnits : List (CmdWord × (State → Flow Unit)) :=
  [(0x9000000000000000#64, hdrRdUnit), (0xA000000000000000#64, treeRdUnit), (0xB000000000000000#64, dictDecUnit),
    (0xC000000000000000#64, decBodyUnit)]

theorem unitCommand_of_mem_decoderUnits : ∀ c ∈ decoderUnits, UnitCommand c.1 c.2 := by
  simp only [decoderUnits, List.forall_mem_cons]
  refine ⟨?_, ?_, ?_, ?_, fun _ h => nomatch h⟩
  · exact ⟨by decide, ⟨.hdrRd, by decide, exec_hdrRd⟩, blind_hdrRdUnit, settles_hdrRdUnit⟩
  · exact ⟨by decide, ⟨.treeRd, by decide, exec_treeRd⟩, blind_treeRdUnit, settles_treeRdUnit⟩
  · exact ⟨by decide, ⟨.dictDec, by decide, exec_dictDec⟩, blind_dictDecUnit, settles_dictDecUnit⟩
  · exact ⟨by decide, ⟨.decBody, by decide, exec_decBody⟩, blind_decBodyUnit, settles_decBodyUnit⟩

theorem decompressUnit_eq_chain (s : State) : decompressUnit s = chain decoderUnits (clearCore s) := by
  simp only [decompressUnit, clearUnit, bind_ok, chain, decoderUnits, bind_ok_self]

/-- Settles O54: the four words run the four units in order, and an ignored word is a unit that does not come to run. -/
theorem unitCommandsEqualDecompress : Obligations.UnitCommandsEqualDecompress := by
  intro s hphase
  have hunits := unitCommand_of_mem_decoderUnits
  have hrun := steps_eq_chain hunits [] (s := clearCore s) hphase (clearCore_isError s)
  rw [← blind_chain hunits] at hrun
  rw [exec_decompress, decompressUnit_eq_chain]
  exact hrun

/-! ### COMPRESS and its units (R155) -/

/-- The unit commands of a compression, but for the host's close. -/
def encoderUnits : List (CmdWord × (State → Flow Unit)) :=
  [(0x2000000000000000#64, analyzeUnit), (0x3000000000000000#64, buildUnit), (0x4000000000000000#64, dictEncUnit),
    (0x5000000000000000#64, hdrWrUnit), (0x6000000000000000#64, treeWrUnit), (0x7000000000000000#64, encBodyUnit)]

theorem unitCommand_of_mem_encoderUnits : ∀ c ∈ encoderUnits, UnitCommand c.1 c.2 := by
  simp only [encoderUnits, List.forall_mem_cons]
  refine ⟨?_, ?_, ?_, ?_, ?_, ?_, fun _ h => nomatch h⟩
  · exact ⟨by decide, ⟨.analyze, by decide, exec_analyze⟩, blind_analyzeUnit, settles_analyzeUnit⟩
  · exact ⟨by decide, ⟨.build, by decide, exec_build⟩, blind_buildUnit, settles_buildUnit⟩
  · exact ⟨by decide, ⟨.dictEnc, by decide, exec_dictEnc⟩, blind_dictEncUnit, settles_dictEncUnit⟩
  · exact ⟨by decide, ⟨.hdrWr, by decide, exec_hdrWr⟩, blind_hdrWrUnit, settles_hdrWrUnit⟩
  · exact ⟨by decide, ⟨.treeWr, by decide, exec_treeWr⟩, blind_treeWrUnit, settles_treeWrUnit⟩
  · exact ⟨by decide, ⟨.encBody, by decide, exec_encBody⟩, blind_encBodyUnit, settles_encBodyUnit⟩

theorem compressUnit_eq_chain_bind (s : State) :
    compressUnit s = (chain encoderUnits (clearCore s)).bind fun _ s => closeOut 0x7#4 s := by
  simp only [compressUnit, clearUnit, bind_ok, chain, encoderUnits, bind_ok_self, bind_assoc]

/-- A COMPRESS that ends READY has completed its units, and then closed OUT_BITS. -/
theorem exists_chain_of_exec_compress {s t : State} (hexec : exec .compress s = .next t) (hstatus : t.status = 0x00#8) :
    ∃ v, chain encoderUnits (clearCore s) = .ok () v ∧ t = padOut (bytesRead 0 1 v) := by
  have hrun : compressUnit s = .ok () t := by
    rcases outcome_eq_next.1 hexec with hrun | hrun
    · exact hrun
    · obtain ⟨-, e, -, hreported⟩ := (compressUnit_ends s).of_ended hrun
      have hzero : (0x00#8).getLsbD 0 = true := by
        rw [← hstatus, hreported]
        exact (statusWord_fields e.1 e.2).1
      exact absurd hzero (by decide)
  rw [compressUnit_eq_chain_bind] at hrun
  cases hchain : chain encoderUnits (clearCore s) with
  | ok a v =>
    rw [hchain, bind_ok] at hrun
    have hclose : (closeOut 0x7#4 v).Ends (fun _ t => t = padOut (bytesRead 0 1 v)) (fun _ => True) False :=
      closeOut_ends rfl fun _ => trivial
    exact ⟨v, rfl, hclose.of_ok hrun⟩
  | ended v => rw [hchain] at hrun; cases hrun
  | stop e => rw [hchain] at hrun; cases hrun

/-- Settles O55: the six words run the six units in order, and the host's close pads OUT_BITS as the CORE's does. -/
theorem unitCommandsEqualCompress : Obligations.UnitCommandsEqualCompress := by
  intro s t hphase hexec hstatus
  have hunits := unitCommand_of_mem_encoderUnits
  obtain ⟨v, hchain, rfl⟩ := exists_chain_of_exec_compress hexec hstatus
  have hvphase : v.phase = .idle := phase_of_chain hunits (s := clearCore { s with host := [] }) hphase hchain
  have hhost : v.host = [] := ((macroFrame _ _).1 hexec).2.2.1
  have hrun := steps_eq_chain hunits [.closeOutBits] (s := clearCore { s with host := [] }) hphase (clearCore_isError _)
  rw [hchain, atEnd_ok, outcome_ok] at hrun
  have hclose : step (setHost [.closeOutBits] v) = .next (padOut { v with host := [] }) :=
    step_of_fetchNext_settled (fetchNext_of_idle (s := setHost [.closeOutBits] v) hvphase rfl)
  refine ⟨v.ioAnswers, (steps_add hrun 1).trans ((steps_of_next hclose).trans ?_)⟩
  rw [← hhost]
  rfl

end Sys2Proof.Machine
end
